-- ==== Sys2Proof/Word.lean ====
section
/-! DEFINITION. The widths of the block (00_scope.md R5): every value the spec treats as bits, as a bit vector. -/

namespace Sys2Proof

/-- One byte of a transport that carries command or response words (20_memory.md R44). -/
abbrev Byte := BitVec 8

/-- A command word or a response word (30_encoding.md R60). -/
abbrev Word := BitVec 32

/-- A virtual or a physical address, a plain 16-bit value (R5; 20_memory.md R41 to R43). -/
abbrev Addr := BitVec 16

/-- A virtual or a physical page number (R5). -/
abbrev PageNo := BitVec 4

/-- The offset of an address in its page (R5). -/
abbrev Offset := BitVec 12

/-- A recency rank: 0 is the most recently used slot, 3 the least (R5; 10_state.md R25). -/
abbrev Rank := BitVec 2

/-- The index of a TLB slot, 0 to 3 (R5; 10_state.md R22). -/
abbrev SlotIx := Fin 4

end Sys2Proof
end

