-- ==== Sys2Proof/Syntax.lean ====
section
/-! DEFINITION. The nine commands (30_encoding.md R63), and their assembler form with operands as bare numbers
(30_encoding.md R73). -/

namespace Sys2Proof

/-- A command with its operands: one constructor per row of the opcode table. Each operand is exactly as wide as its
field, and every value of a field is legal (30_encoding.md R68). -/
inductive Instr where
  /-- Translate a virtual address (43_translator.md R130). -/
  | translate (va : Addr)
  /-- Probe the TLB for a page number (42_tlb.md R101). -/
  | find (pn : PageNo)
  /-- Make a slot the most recently used (42_tlb.md R104). -/
  | touch (slot : SlotIx)
  /-- Report the least recently used slot (42_tlb.md R108). -/
  | victim
  /-- Write a mapping into a slot; the operands stand in the source's order (42_tlb.md R113). -/
  | install (slot : SlotIx) (ppn vpn : PageNo)
  /-- Read one page-table entry (41_page_table.md R91). -/
  | ptlookup (pn : PageNo)
  /-- Dump the four ranks (42_tlb.md R116). -/
  | ranks
  /-- Extract a page number (40_address_codec.md R82). -/
  | pgnum (va : Addr)
  /-- Reassemble a physical address (40_address_codec.md R83). -/
  | physaddr (va : Addr) (ppn : PageNo)
deriving DecidableEq, Repr

/-- The nine mnemonics of the opcode map (30_encoding.md R63). -/
inductive Mnemonic where
  | translate | find | touch | victim | install | ptlookup | ranks | pgnum | physaddr
deriving DecidableEq, Repr

/-- An assembler line after its numbers are read: a mnemonic and its operands, in the argument order of the source's
function, not yet checked against their ranges (30_encoding.md R73). -/
structure SourceLine where
  mnemonic : Mnemonic
  operands : List Nat
deriving DecidableEq, Repr

/-- The assembler line of a command (30_encoding.md R73). -/
def Instr.source : Instr → SourceLine
  | .translate va => { mnemonic := .translate, operands := [va.toNat] }
  | .find pn => { mnemonic := .find, operands := [pn.toNat] }
  | .touch slot => { mnemonic := .touch, operands := [slot.val] }
  | .victim => { mnemonic := .victim, operands := [] }
  | .install slot ppn vpn => { mnemonic := .install, operands := [slot.val, ppn.toNat, vpn.toNat] }
  | .ptlookup pn => { mnemonic := .ptlookup, operands := [pn.toNat] }
  | .ranks => { mnemonic := .ranks, operands := [] }
  | .pgnum va => { mnemonic := .pgnum, operands := [va.toNat] }
  | .physaddr va ppn => { mnemonic := .physaddr, operands := [va.toNat, ppn.toNat] }

end Sys2Proof
end

