-- ==== Sys2Proof/WellFormed.lean ====
section
/-! DEFINITION. Which assembler lines name a command: the operand count and the operand ranges that an assembler
checks (30_encoding.md R73). A term of `Instr` has its ranges in its types, because no operand range check of the block
exists and none can fail (30_encoding.md R68; log entry 13). -/

namespace Sys2Proof

/-- The least number too large for each operand, in operand order (30_encoding.md R73: va > 0xFFFF, pn, ppn or
vpn > 15 and slot > 3 are refused). -/
def Mnemonic.operandBounds : Mnemonic → List Nat
  | .translate => [0x10000]
  | .find => [16]
  | .touch => [4]
  | .victim => []
  | .install => [4, 16, 16]
  | .ptlookup => [16]
  | .ranks => []
  | .pgnum => [0x10000]
  | .physaddr => [0x10000, 16]

/-- The line has as many operands as its mnemonic takes. -/
def SourceLine.countOk (l : SourceLine) : Bool :=
  l.operands.length == l.mnemonic.operandBounds.length

/-- Every operand is in its range (30_encoding.md R73). -/
def SourceLine.rangesOk (l : SourceLine) : Bool :=
  (l.operands.zip l.mnemonic.operandBounds).all fun (n, bound) => n < bound

/-- The line is one of the forms of 30_encoding.md R73. -/
def SourceLine.wellFormed (l : SourceLine) : Bool :=
  l.countOk && l.rangesOk

/-- A command is well formed when its assembler line is. Every command is (30_encoding.md R68). -/
def Instr.wellFormed (i : Instr) : Bool :=
  i.source.wellFormed

end Sys2Proof
end

