-- ==== Sys2Proof/Decode.lean ====
section
/-! DEFINITION. Command words: the opcode table as mask and match rows, the decoder, the encoder, and the byte order of
a transport (30_encoding.md R61 to R63, R68 to R73; 20_memory.md R44). -/

namespace Sys2Proof

/-- Why a word or a byte stream is not a command. The block answers the first two alike (60_exceptions.md R152). -/
inductive DecodeError where
  /-- Opcode 0x0 or 0xA to 0xF (30_encoding.md R70). -/
  | reservedOpcode
  /-- An assigned opcode with a reserved-zero bit set (30_encoding.md R69). -/
  | reservedBits (m : Mnemonic)
  /-- Fewer than four bytes are left, so no command word is there (30_encoding.md R61; log entry 10). -/
  | truncated
deriving DecidableEq, Repr

/-- The opcode of a command word, bits 31:28 (30_encoding.md R61). -/
def opcodeField (w : Word) : BitVec 4 := w.extractLsb' 28 4

/-- The operand `va`, bits 15:0 of formats V and A (30_encoding.md R62). -/
def vaField (w : Word) : Addr := w.extractLsb' 0 16

/-- The operand `pn`, bits 3:0 of format P (30_encoding.md R62). -/
def pnField (w : Word) : PageNo := w.extractLsb' 0 4

/-- The operand `slot`, bits 1:0 of formats S and I (30_encoding.md R62). -/
def slotField (w : Word) : SlotIx := (w.extractLsb' 0 2).toFin

/-- The operand `ppn` of format I, bits 7:4 (30_encoding.md R62). -/
def installPpnField (w : Word) : PageNo := w.extractLsb' 4 4

/-- The operand `vpn` of format I, bits 11:8 (30_encoding.md R62). -/
def installVpnField (w : Word) : PageNo := w.extractLsb' 8 4

/-- The operand `ppn` of format A, bits 19:16 (30_encoding.md R62). -/
def assemblyPpnField (w : Word) : PageNo := w.extractLsb' 16 4

/-- The bits every word of a command has fixed, opcode and reserved zeros: the `mask` of its opcode-table row. -/
def Mnemonic.mask : Mnemonic → Word
  | .translate => 0xFFFF0000
  | .find => 0xFFFFFFF0
  | .touch => 0xFFFFFFFC
  | .victim => 0xFFFFFFFF
  | .install => 0xFFFFF00C
  | .ptlookup => 0xFFFFFFF0
  | .ranks => 0xFFFFFFFF
  | .pgnum => 0xFFFF0000
  | .physaddr => 0xFFF00000

/-- The values of the fixed bits: the `match` of its opcode-table row, also the numbers of 30_encoding.md R73. -/
def Mnemonic.pattern : Mnemonic → Word
  | .translate => 0x10000000
  | .find => 0x20000000
  | .touch => 0x30000000
  | .victim => 0x40000000
  | .install => 0x50000000
  | .ptlookup => 0x60000000
  | .ranks => 0x70000000
  | .pgnum => 0x80000000
  | .physaddr => 0x90000000

/-- The rows of the opcode table, in its order. -/
def opcodeTable : List Mnemonic :=
  [.translate, .find, .touch, .victim, .install, .ptlookup, .ranks, .pgnum, .physaddr]

/-- The word is one of the row's words: 30_encoding.md R71, `(word & mask_C) == match_C`. -/
def Mnemonic.matches (m : Mnemonic) (w : Word) : Bool :=
  w &&& m.mask == m.pattern

/-- The command a word of the row stands for: its operand fields as they stand (30_encoding.md R62, R68, R72). -/
def Mnemonic.read (m : Mnemonic) (w : Word) : Instr :=
  match m with
  | .translate => .translate (vaField w)
  | .find => .find (pnField w)
  | .touch => .touch (slotField w)
  | .victim => .victim
  | .install => .install (slotField w) (installPpnField w) (installVpnField w)
  | .ptlookup => .ptlookup (pnField w)
  | .ranks => .ranks
  | .pgnum => .pgnum (vaField w)
  | .physaddr => .physaddr (vaField w) (assemblyPpnField w)

/-- Why a word that no row matches is refused: its opcode is assigned and a reserved bit is set, or its opcode is
reserved (30_encoding.md R69, R70). -/
def refusalOf (w : Word) : DecodeError :=
  match opcodeTable.find? (fun m => opcodeField m.pattern == opcodeField w) with
  | some m => .reservedBits m
  | none => .reservedOpcode

/-- The decoder, total on words (30_encoding.md R71). -/
def decodeWord (w : Word) : Except DecodeError Instr :=
  match opcodeTable.find? (fun m => m.matches w) with
  | some m => .ok (m.read w)
  | none => .error (refusalOf w)

/-- The bytes of a word as a transport moves them, bits 7:0 first (20_memory.md R44). -/
def wordBytes (w : Word) : List Byte :=
  [w.extractLsb' 0 8, w.extractLsb' 8 8, w.extractLsb' 16 8, w.extractLsb' 24 8]

/-- The word of four transported bytes, in the order they arrive (20_memory.md R44). -/
def bytesWord (b0 b1 b2 b3 : Byte) : Word := b3 ++ b2 ++ b1 ++ b0

/-- Reads one command from a byte stream and gives the bytes that follow it; every command is four bytes long
(30_encoding.md R61; 20_memory.md R44). -/
def decodeBytes : List Byte → Except DecodeError (Instr × List Byte)
  | b0 :: b1 :: b2 :: b3 :: rest =>
    match decodeWord (bytesWord b0 b1 b2 b3) with
    | .ok i => .ok (i, rest)
    | .error e => .error e
  | _ => .error .truncated

/-- The word of a command (30_encoding.md R73). -/
def encode : Instr → Word
  | .translate va => 0x10000000 ||| va.setWidth 32
  | .find pn => 0x20000000 ||| pn.setWidth 32
  | .touch slot => 0x30000000 ||| BitVec.ofNat 32 slot.val
  | .victim => 0x40000000
  | .install slot ppn vpn =>
    0x50000000 ||| vpn.setWidth 32 <<< 8 ||| ppn.setWidth 32 <<< 4 ||| BitVec.ofNat 32 slot.val
  | .ptlookup pn => 0x60000000 ||| pn.setWidth 32
  | .ranks => 0x70000000
  | .pgnum va => 0x80000000 ||| va.setWidth 32
  | .physaddr va ppn => 0x90000000 ||| ppn.setWidth 32 <<< 16 ||| va.setWidth 32

/-- The command word that a number of `nbits` bits stands for, the bits above them zero. -/
def tableWord (nbits w : Nat) : Word := BitVec.ofNat 32 (w % 2 ^ nbits)

/-- What the byte decoder reads from the bytes of an opcode-table word. -/
def decodeTableWord (nbits w : Nat) : Option Instr :=
  match decodeBytes (wordBytes (tableWord nbits w)) with
  | .ok (i, _) => some i
  | .error _ => none

end Sys2Proof
end

