-- ==== Sys2Proof/Config.lean ====
section
/-! DEFINITION. What an integrator fixes at reset (00_scope.md R6) and the block's named constants (R5, R7).
The spec leaves no value undefined, so there is no free value here. -/

namespace Sys2Proof

/-- One page-table entry (10_state.md R27). -/
structure PTE where
  valid : Bool
  ppn   : PageNo
deriving DecidableEq, Repr

/-- `TLB_RESET_STYLE` (00_scope.md R6(b); 70_reset_and_hazards.md R171). -/
inductive TlbResetStyle where
  /-- Every slot is valid and maps page 0 to page 0: the default. -/
  | allValidZero
  /-- Every slot is Empty: the deviation the source permits. -/
  | allEmpty
deriving DecidableEq, Repr

/-- The two reset-time parameters (00_scope.md R6): `PT_FILL` and `TLB_RESET_STYLE`. -/
structure ResetParams where
  ptFill   : Vector PTE 16
  tlbStyle : TlbResetStyle
deriving DecidableEq, Repr

/-- The default `PT_FILL`: entry `i` is valid and maps to page `i` (00_scope.md R6(a)). -/
def Config.identityFill : Vector PTE 16 :=
  Vector.ofFn fun i => { valid := true, ppn := BitVec.ofFin i }

/-- The default parameters (00_scope.md R6). -/
def ResetParams.standard : ResetParams :=
  { ptFill := Config.identityFill, tlbStyle := .allValidZero }

/-- The rank of the victim (00_scope.md R5, `LRU_RANK`). UNVERIFIED: the spec's literals are not audited
against the repository (R7; log entry 7). -/
def Config.lruRank : Rank := 3

end Sys2Proof
end

