-- ==== Sys2Proof/Machine/State.lean ====
section
/-! DEFINITION. The state of one block (10_state.md), its two ports, why a step can stop, and reset
(70_reset_and_hazards.md R170 to R172). -/

namespace Sys2Proof.Machine

/-- One TLB slot (10_state.md R22): Occupied when `valid`, Empty otherwise (R23). -/
structure Slot where
  valid : Bool
  rank  : Rank
  vpn   : PageNo
  ppn   : PageNo
deriving DecidableEq, Repr

/-- What the host can do to the block. DESIGN CHOICE (log entries 1 and 2). -/
inductive HostEvent where
  /-- The host presents a command word on the command port (30_encoding.md R60). -/
  | command (w : Word)
  /-- The host asserts reset with the two parameters (70_reset_and_hazards.md R173, R174). -/
  | reset (p : ResetParams)
deriving DecidableEq, Repr

/-- The whole state. `slots`, `pt` and `fatal` are all the spec gives the block (10_state.md); `response` and `events`
are its ports. -/
@[ext]
structure State where
  /-- The TLB slot array (10_state.md R22). -/
  slots    : Vector Slot 4
  /-- The page table, entry `n` mapping virtual page `n` (10_state.md R27). -/
  pt       : Vector PTE 16
  /-- The sticky internal-fault flag (10_state.md R30). -/
  fatal    : Bool
  /-- The response port: the last response word delivered, if any since reset (30_encoding.md R60, R65;
  log entry 3, DESIGN CHOICE). -/
  response : Option Word
  /-- The MODEL's own field: what the host will still do, next first (log entry 1, DESIGN CHOICE). The block never
  has more than the first entry outstanding (30_encoding.md R60). -/
  events   : List HostEvent
deriving DecidableEq, Repr

/-- Why the machine stops with a fault: never. The step has no failure outcome other than the response status
(30_encoding.md R72), so every fault of the spec is a next state and this type is empty (log entry 12). -/
inductive Fault where
deriving DecidableEq, Repr

/-- Why a step has no meaning. -/
inductive Refusal where
  /-- Raised only by an arm of `exec` for an instruction with no meaning yet; no arm is one. Safe. -/
  | notModelled (mnemonic : String)
deriving DecidableEq, Repr

/-- Slot `i` right after reset (70_reset_and_hazards.md R171). -/
def Slot.atReset (style : TlbResetStyle) (i : SlotIx) : Slot :=
  { valid := decide (style = .allValidZero), rank := BitVec.ofFin i, vpn := 0, ppn := 0 }

/-- The block right after reset with the given parameters (70_reset_and_hazards.md R170 to R172). -/
def State.resetWith (p : ResetParams) : State :=
  { slots := Vector.ofFn (Slot.atReset p.tlbStyle), pt := p.ptFill, fatal := false, response := none, events := [] }

/-- The block right after reset with the default parameters (00_scope.md R6; log entry 4). -/
def State.reset : State := State.resetWith ResetParams.standard

end Sys2Proof.Machine
end

