-- ==== Sys2Proof/Machine/Flags.lean ====
section
/-! DEFINITION. Outcome codes and the response word. The block keeps no status flags between commands; each response
carries its own (10_state.md R31; 30_encoding.md R65, R66). -/

namespace Sys2Proof.Machine

/-- The outcome of a command (30_encoding.md R66). -/
inductive Status where
  | ok
  | pageFault
  | internalConsistencyFault
  | illegalCommand
deriving DecidableEq, Repr

/-- The status code (30_encoding.md R66). -/
def statusCode : Status → BitVec 2
  | .ok => 0
  | .pageFault => 1
  | .internalConsistencyFault => 2
  | .illegalCommand => 3

/-- `(status << 24) | (hit << 20) | (slot << 16) | data` (30_encoding.md R65). -/
def responseWord (status : Status) (hit : Bool) (slot : SlotIx) (data : BitVec 16) : Word :=
  (statusCode status).setWidth 32 <<< 24 ||| (BitVec.ofBool hit).setWidth 32 <<< 20 |||
    BitVec.ofNat 32 slot.val <<< 16 ||| data.setWidth 32

end Sys2Proof.Machine
end

