-- ==== Sys2Proof/Machine/Operands.lean ====
section
/-! DEFINITION. The address codec (40_address_codec.md R80, R81) and the packed forms of a page-table entry, a slot and
the four ranks (10_state.md R24, R28; 42_tlb.md R116). -/

namespace Sys2Proof.Machine

/-- `page_number(va)`, bits 15:12 (40_address_codec.md R80). -/
def pageNumber (va : Addr) : PageNo := va.extractLsb' 12 4

/-- `offset(va)`, bits 11:0 (40_address_codec.md R80). -/
def pageOffset (va : Addr) : Offset := va.extractLsb' 0 12

/-- `physical_address(va, ppn)`: the page number replaced, the offset kept (40_address_codec.md R81). -/
def physicalAddress (va : Addr) (ppn : PageNo) : Addr := ppn ++ pageOffset va

/-- A page-table entry as one number: bit 4 valid, bits 3:0 ppn (10_state.md R28). -/
def packPte (e : PTE) : BitVec 5 := BitVec.ofBool e.valid ++ e.ppn

/-- A slot as one number: bit 10 valid, 9:8 rank, 7:4 vpn, 3:0 ppn (10_state.md R24). -/
def packSlot (sl : Slot) : BitVec 11 := BitVec.ofBool sl.valid ++ sl.rank ++ sl.vpn ++ sl.ppn

/-- The slot a packed number stands for (10_state.md R24). -/
def unpackSlot (b : BitVec 11) : Slot :=
  { valid := b.getLsbD 10, rank := b.extractLsb' 8 2, vpn := b.extractLsb' 4 4, ppn := b.extractLsb' 0 4 }

/-- Four ranks as one number, slot 0's in bits 1:0 (42_tlb.md R116). -/
def packRanks (r0 r1 r2 r3 : Rank) : BitVec 8 := r3 ++ r2 ++ r1 ++ r0

end Sys2Proof.Machine
end

