-- ==== Sys2Proof/Machine/Ops.lean ====
section
/-! DEFINITION. The operations commands are made of: reading and writing the arrays, `respond`, `find`, `touch`,
`victim`, `install`, `pt_lookup`, taking a fault, and reset, the only way back from the fatal one (00_scope.md R10). -/

namespace Sys2Proof.Machine

/-- Reads slot `i`, all four fields (20_memory.md R46). -/
def State.slot (s : State) (i : SlotIx) : Slot := s.slots[i]

/-- Reads page-table entry `n`, both fields (20_memory.md R46). -/
def State.pte (s : State) (n : PageNo) : PTE := s.pt[n.toNat]'n.isLt

/-- Writes the slot array: slot `j` becomes `f j`, all four together (00_scope.md R9). -/
def State.withSlots (f : SlotIx → Slot) (s : State) : State := { s with slots := Vector.ofFn f }

/-- Slot indices in ascending order, the order of every scan (42_tlb.md R100, R107). -/
def slotOrder : List SlotIx := [0, 1, 2, 3]

/-- `respond(status, hit, slot, data)`: the one response of a command (30_encoding.md R65). -/
def respond (status : Status) (hit : Bool) (slot : SlotIx) (data : BitVec 16) (s : State) : State :=
  { s with response := some (responseWord status hit slot data) }

/-- `pt_lookup(n)` (41_page_table.md R90). -/
def ptLookup (n : PageNo) (s : State) : PTE := s.pte n

/-- The slot takes part in a lookup of page `n` and matches it (42_tlb.md R100). -/
def slotMatches (n : PageNo) (sl : Slot) : Bool := sl.valid && sl.vpn == n

/-- `find(n)`: the lowest matching slot (42_tlb.md R100; lowest index is the spec's D17, log entry 6). -/
def findSlot (n : PageNo) (s : State) : Option SlotIx :=
  slotOrder.find? fun i => slotMatches n (s.slot i)

/-- The rank of slot `j` after slot `i`, whose rank was `rOld`, is touched; `r` is `j`'s rank before (42_tlb.md R103). -/
def rerank (i : SlotIx) (rOld : Rank) (j : SlotIx) (r : Rank) : Rank :=
  if j = i then 0 else if r < rOld then r + 1 else r

/-- `touch(i)`: all four ranks are recomputed together from the ranks before (42_tlb.md R103). -/
def touchSlot (i : SlotIx) (s : State) : State :=
  s.withSlots fun j => { s.slot j with rank := rerank i (s.slot i).rank j (s.slot j).rank }

/-- `victim()`: the slot whose rank is 3, the lowest if there are several, or none (42_tlb.md R107, D18). -/
def victimSlot (s : State) : Option SlotIx :=
  slotOrder.find? fun i => (s.slot i).rank == Config.lruRank

/-- The overwrite of `install`: slot `i`'s mapping and valid bit, not its rank (42_tlb.md R111). -/
def overwriteSlot (i : SlotIx) (ppn vpn : PageNo) (s : State) : State :=
  s.withSlots fun j => if j = i then { s.slot j with valid := true, vpn := vpn, ppn := ppn } else s.slot j

/-- `install(i, ppn, vpn)`: overwrite, then touch (42_tlb.md R111). -/
def installSlot (i : SlotIx) (ppn vpn : PageNo) (s : State) : State :=
  touchSlot i (overwriteSlot i ppn vpn s)

/-- The three faults a command word can raise (60_exceptions.md R150 to R152). -/
inductive Cause where
  | pageFault (va : Addr)
  | internalConsistency
  | illegalCommand
deriving DecidableEq, Repr

/-- Taking a fault. Entry is the fault response and nothing else: no saved state, no vector, no mode change; only the
internal fault writes state, `fatal <- 1` (60_exceptions.md R150 to R152, R155). -/
def takeFault (c : Cause) (s : State) : State :=
  match c with
  | .pageFault va => respond .pageFault false 0 va s
  | .internalConsistency => respond .internalConsistencyFault false 0 0 { s with fatal := true }
  | .illegalCommand => respond .illegalCommand false 0 0 s

/-- The answer to any word during the fatal halt (60_exceptions.md R153). -/
def answerHalted (s : State) : State := respond .internalConsistencyFault false 0 0 s

/-- Reset between commands (70_reset_and_hazards.md R170 to R173), the only return from the fatal halt: there is no
return-from-fault command (60_exceptions.md R156). What the host will do next is the host's and stays (log entry 2). -/
def applyReset (p : ResetParams) (s : State) : State := { State.resetWith p with events := s.events }

end Sys2Proof.Machine
end

