-- ==== Sys2Proof/Machine/Codec.lean ====
section
/-! DEFINITION. The address-codec commands PGNUM and PHYSADDR (40_address_codec.md). -/

namespace Sys2Proof.Machine

/-- PGNUM (40_address_codec.md R82). -/
def execPgnum (va : Addr) (s : State) : Host.Outcome State Fault Refusal :=
  .next (respond .ok false 0 ((pageNumber va).setWidth 16) s)

/-- PHYSADDR (40_address_codec.md R83). -/
def execPhysaddr (va : Addr) (ppn : PageNo) (s : State) : Host.Outcome State Fault Refusal :=
  .next (respond .ok false 0 (physicalAddress va ppn) s)

end Sys2Proof.Machine
end

