-- ==== Sys2Proof/Machine/PageTable.lean ====
section
/-! DEFINITION. The page-table command PTLOOKUP (41_page_table.md). -/

namespace Sys2Proof.Machine

/-- PTLOOKUP: an invalid entry is no fault here, and its stored ppn is returned (41_page_table.md R91). -/
def execPtlookup (pn : PageNo) (s : State) : Host.Outcome State Fault Refusal :=
  .next (respond .ok false 0 ((packPte (ptLookup pn s)).setWidth 16) s)

end Sys2Proof.Machine
end

