-- ==== Sys2Proof/Machine/Tlb.lean ====
section
/-! DEFINITION. The TLB commands FIND, TOUCH, VICTIM, INSTALL and RANKS (42_tlb.md). -/

namespace Sys2Proof.Machine

/-- FIND: a probe, which touches nothing even on a hit (42_tlb.md R101). -/
def execFind (pn : PageNo) (s : State) : Host.Outcome State Fault Refusal :=
  match findSlot pn s with
  | some i => .next (respond .ok true i 0 s)
  | none => .next (respond .ok false 0 0 s)

/-- TOUCH (42_tlb.md R104). -/
def execTouch (slot : SlotIx) (s : State) : Host.Outcome State Fault Refusal :=
  .next (respond .ok false slot 0 (touchSlot slot s))

/-- VICTIM: reports the slot, and takes the internal fault where no slot has rank 3 (42_tlb.md R108). -/
def execVictim (s : State) : Host.Outcome State Fault Refusal :=
  match victimSlot s with
  | some i => .next (respond .ok false i 0 s)
  | none => .next (takeFault .internalConsistency s)

/-- INSTALL: checked against nothing (42_tlb.md R113). -/
def execInstall (slot : SlotIx) (ppn vpn : PageNo) (s : State) : Host.Outcome State Fault Refusal :=
  .next (respond .ok false slot 0 (installSlot slot ppn vpn s))

/-- RANKS (42_tlb.md R116). -/
def execRanks (s : State) : Host.Outcome State Fault Refusal :=
  .next (respond .ok false 0
    ((packRanks (s.slot 0).rank (s.slot 1).rank (s.slot 2).rank (s.slot 3).rank).setWidth 16) s)

end Sys2Proof.Machine
end

