-- ==== Sys2Proof/Machine/Translator.lean ====
section
/-! DEFINITION. The translator: the command TRANSLATE and its paths (43_translator.md R130 to R133). -/

namespace Sys2Proof.Machine

/-- The hit path: the page table is not read (43_translator.md R131). -/
def translateHit (va : Addr) (i : SlotIx) (s : State) : State :=
  respond .ok true i (physicalAddress va (s.slot i).ppn) (touchSlot i s)

/-- The miss-and-fill path into the victim `v`, completed in the same command (43_translator.md R133). -/
def translateFill (va : Addr) (ppn : PageNo) (v : SlotIx) (s : State) : State :=
  respond .ok false v (physicalAddress va ppn) (installSlot v ppn (pageNumber va) s)

/-- The miss path: a fault on an invalid entry, before any victim is chosen (43_translator.md R132), else the fill, or
the internal fault where no slot has rank 3 (60_exceptions.md R151). -/
def translateMiss (va : Addr) (e : PTE) (s : State) : State :=
  if e.valid then
    match victimSlot s with
    | some v => translateFill va e.ppn v s
    | none => takeFault .internalConsistency s
  else takeFault (.pageFault va) s

/-- TRANSLATE (43_translator.md R130). -/
def execTranslate (va : Addr) (s : State) : Host.Outcome State Fault Refusal :=
  match findSlot (pageNumber va) s with
  | some i => .next (translateHit va i s)
  | none => .next (translateMiss va (ptLookup (pageNumber va) s) s)

end Sys2Proof.Machine
end

