-- ==== Sys2Proof/Machine/Dispatch.lean ====
section
/-! DEFINITION. The dispatch on a decoded command (30_encoding.md R72, the `case op` of the step). -/

namespace Sys2Proof.Machine

def exec (i : Instr) (s : State) : Host.Outcome State Fault Refusal :=
  match i with
  | .translate va => Sys2Proof.Machine.execTranslate va s
  | .find pn => Sys2Proof.Machine.execFind pn s
  | .touch slot => Sys2Proof.Machine.execTouch slot s
  | .victim => Sys2Proof.Machine.execVictim s
  | .install slot ppn vpn => Sys2Proof.Machine.execInstall slot ppn vpn s
  | .ptlookup pn => Sys2Proof.Machine.execPtlookup pn s
  | .ranks => Sys2Proof.Machine.execRanks s
  | .pgnum va => Sys2Proof.Machine.execPgnum va s
  | .physaddr va ppn => Sys2Proof.Machine.execPhysaddr va ppn s

end Sys2Proof.Machine
end

