-- ==== Sys2Proof/Machine/Command.lean ====
section
/-! DEFINITION. What the block does with what the host presents (30_encoding.md R72; 60_exceptions.md R154, R165). -/

namespace Sys2Proof.Machine

/-- Executes one command word: the fatal halt wins, then an undecodable word, then the command (30_encoding.md R72;
60_exceptions.md R152 to R154). The halt is checked here and nowhere else (log entry 5). -/
def acceptCommand (w : Word) (s : State) : Host.Outcome State Fault Refusal :=
  if s.fatal then .next (answerHalted s)
  else
    match decodeWord w with
    | .ok i => exec i s
    | .error _ => .next (takeFault .illegalCommand s)

/-- One thing the host does, with what it will do after it already in `s` (log entries 1 and 2). -/
def acceptEvent (e : HostEvent) (s : State) : Host.Outcome State Fault Refusal :=
  match e with
  | .command w => acceptCommand w s
  | .reset p => .next (applyReset p s)

/-- With nothing presented the block is idle and its state is held unchanged (60_exceptions.md R165; log entry 8). -/
def idle (s : State) : Host.Outcome State Fault Refusal := .next s

/-- Removes the event being accepted from what the host will still do. -/
def takeEvents (rest : List HostEvent) (s : State) : State := { s with events := rest }

/-- Presents a command word next, before all the host would do otherwise. -/
def presentCommand (w : Word) (s : State) : State := { s with events := .command w :: s.events }

end Sys2Proof.Machine
end

