-- ==== Sys2Proof/Machine/Step.lean ====
section
/-! DEFINITION. One step: the complete execution of the next thing the host presents (00_scope.md R11; 30_encoding.md
R72). -/

namespace Sys2Proof.Machine

/-- One step of the block (00_scope.md R11; log entry 1). -/
def step (s : State) : Host.Outcome State Fault Refusal :=
  match s.events with
  | [] => idle s
  | e :: rest => acceptEvent e (takeEvents rest s)

/-- `s` with the word of an opcode-table number presented next (log entry 1). -/
def State.withFetchWord (s : State) (nbits w : Nat) : State :=
  presentCommand (tableWord nbits w) s

end Sys2Proof.Machine
end

