-- ==== Sys2Proof/Machine/Assembler.lean ====
section
/-! DEFINITION. The assembler of 30_encoding.md R73: text to a line, a line to a command, a command to its one word
(R74). It is notation only and no step uses it (92_eei_decisions.md D9). Spelling the rule leaves open is log entry 11. -/

namespace Sys2Proof.Machine

/-- Why an assembler emits no word (30_encoding.md R73). -/
inductive AsmError where
  /-- The text is no mnemonic with numbers separated by commas. -/
  | badText
  /-- Not as many operands as the mnemonic takes. -/
  | operandCount (m : Mnemonic)
  /-- An operand out of its range. -/
  | operandRange (m : Mnemonic)
deriving DecidableEq, Repr

/-- The command of a line: none unless the line is well formed (30_encoding.md R73). -/
def commandOfLine (l : SourceLine) : Option Instr :=
  if l.wellFormed then
    match l.mnemonic, l.operands with
    | .translate, [va] => some (.translate (BitVec.ofNat 16 va))
    | .find, [pn] => some (.find (BitVec.ofNat 4 pn))
    | .touch, [slot] => some (.touch (Fin.ofNat 4 slot))
    | .victim, [] => some .victim
    | .install, [slot, ppn, vpn] => some (.install (Fin.ofNat 4 slot) (BitVec.ofNat 4 ppn) (BitVec.ofNat 4 vpn))
    | .ptlookup, [pn] => some (.ptlookup (BitVec.ofNat 4 pn))
    | .ranks, [] => some .ranks
    | .pgnum, [va] => some (.pgnum (BitVec.ofNat 16 va))
    | .physaddr, [va, ppn] => some (.physaddr (BitVec.ofNat 16 va) (BitVec.ofNat 4 ppn))
    | _, _ => none
  else none

/-- The word of a line, or why there is none (30_encoding.md R73). -/
def assembleLine (l : SourceLine) : Except AsmError Word :=
  match commandOfLine l with
  | some i => .ok (encode i)
  | none => if l.countOk then .error (.operandRange l.mnemonic) else .error (.operandCount l.mnemonic)

/-- The value of a digit in the given base, 10 or 16. -/
def digitValue (base : Nat) (c : Char) : Option Nat :=
  let n := c.toNat
  let v := if 48 ≤ n ∧ n ≤ 57 then some (n - 48)
    else if 65 ≤ n ∧ n ≤ 70 then some (n - 55)
    else if 97 ≤ n ∧ n ≤ 102 then some (n - 87)
    else none
  v.filter (· < base)

/-- Reads digits, most significant first, onto the number read so far. -/
def digitsOnto (base : Nat) : Nat → List Char → Option Nat
  | n, [] => some n
  | n, c :: cs => (digitValue base c).bind fun d => digitsOnto base (n * base + d) cs

/-- A number in decimal, or in hex with a `0x` prefix (30_encoding.md R73). -/
def readNumber : List Char → Option Nat
  | [] => none
  | ['0', 'x'] => none
  | '0' :: 'x' :: cs => digitsOnto 16 0 cs
  | cs => digitsOnto 10 0 cs

/-- The mnemonic's letters (30_encoding.md R63). -/
def mnemonicLetters : Mnemonic → List Char
  | .translate => ['T', 'R', 'A', 'N', 'S', 'L', 'A', 'T', 'E']
  | .find => ['F', 'I', 'N', 'D']
  | .touch => ['T', 'O', 'U', 'C', 'H']
  | .victim => ['V', 'I', 'C', 'T', 'I', 'M']
  | .install => ['I', 'N', 'S', 'T', 'A', 'L', 'L']
  | .ptlookup => ['P', 'T', 'L', 'O', 'O', 'K', 'U', 'P']
  | .ranks => ['R', 'A', 'N', 'K', 'S']
  | .pgnum => ['P', 'G', 'N', 'U', 'M']
  | .physaddr => ['P', 'H', 'Y', 'S', 'A', 'D', 'D', 'R']

/-- The characters without the spaces around them. -/
def trimSpaces (cs : List Char) : List Char :=
  ((cs.dropWhile (· == ' ')).reverse.dropWhile (· == ' ')).reverse

/-- Splits at commas: always at least one piece. -/
def splitCommas : List Char → List (List Char)
  | [] => [[]]
  | c :: cs =>
    if c == ',' then [] :: splitCommas cs
    else match splitCommas cs with
      | [] => [[c]]
      | p :: ps => (c :: p) :: ps

/-- The numbers of an operand list; nothing at all is the empty list. -/
def readOperands (cs : List Char) : Option (List Nat) :=
  if trimSpaces cs == [] then some [] else (splitCommas cs).mapM fun piece => readNumber (trimSpaces piece)

/-- A line of text: the mnemonic, then its operands separated by commas (30_encoding.md R73). -/
def readLine (text : List Char) : Option SourceLine :=
  let line := trimSpaces text
  let letters := line.takeWhile (· != ' ')
  match opcodeTable.find? (fun m => mnemonicLetters m == letters), readOperands (line.dropWhile (· != ' ')) with
  | some m, some ns => some { mnemonic := m, operands := ns }
  | _, _ => none

/-- The word of a line of text, or why there is none (30_encoding.md R73). -/
def assembleText (text : List Char) : Except AsmError Word :=
  match readLine text with
  | some l => assembleLine l
  | none => .error .badText

end Sys2Proof.Machine
end

