-- ==== Sys2Proof/Safety.lean ====
section
/-! DEFINITION. The terms claims use: what a response says, what two states share, and the predicates the spec's
prose makes about the whole block. They read a response by its bit positions and slots by their fields, not by the
functions the machine is made of. -/

namespace Sys2Proof.Machine

/-- The response port shows this outcome: bits 25:24 status, 20 hit, 17:16 slot, 15:0 data, every other bit 0
(30_encoding.md R65). All 32 bits are fixed by it. -/
def Answers (t : State) (status : BitVec 2) (hit : Bool) (slot : SlotIx) (data : BitVec 16) : Prop :=
  ∃ w, t.response = some w ∧ w.extractLsb' 24 2 = status ∧ w.getLsbD 20 = hit ∧
    (w.extractLsb' 16 2).toNat = slot.val ∧ w.extractLsb' 0 16 = data ∧
    w.extractLsb' 18 2 = 0 ∧ w.extractLsb' 21 3 = 0 ∧ w.extractLsb' 26 6 = 0

/-- The response port shows an outcome with this status (30_encoding.md R65, R66). -/
def StatusIs (t : State) (status : BitVec 2) : Prop :=
  ∃ w, t.response = some w ∧ w.extractLsb' 24 2 = status

/-- All the state the spec gives the block is the same: slots, page table and `fatal` (10_state.md). -/
def SameStorage (s t : State) : Prop := t.slots = s.slots ∧ t.pt = s.pt ∧ t.fatal = s.fatal

/-- Nothing differs but what the response port shows. -/
def SameButResponse (s t : State) : Prop := SameStorage s t ∧ t.events = s.events

/-- Nothing differs but the slot array and what the response port shows. -/
def SameButSlots (s t : State) : Prop := t.pt = s.pt ∧ t.fatal = s.fatal ∧ t.events = s.events

/-- Nothing differs but the four ranks and what the response port shows. -/
def SameButRanks (s t : State) : Prop :=
  SameButSlots s t ∧ ∀ j, (t.slot j).valid = (s.slot j).valid ∧ (t.slot j).vpn = (s.slot j).vpn ∧
    (t.slot j).ppn = (s.slot j).ppn

/-- Slot `i` is Occupied and holds page `n` (42_tlb.md R100). -/
def Holds (s : State) (i : SlotIx) (n : PageNo) : Prop :=
  (s.slot i).valid = true ∧ (s.slot i).vpn = n

/-- A lookup of page `n` finds slot `i`: it holds the page and no lower slot does (42_tlb.md R100). -/
def Finds (s : State) (n : PageNo) (i : SlotIx) : Prop :=
  Holds s i n ∧ ∀ j, j < i → ¬ Holds s j n

/-- A lookup of page `n` finds nothing (42_tlb.md R100). -/
def Misses (s : State) (n : PageNo) : Prop := ∀ i, ¬ Holds s i n

/-- Slot `v` is the victim: its rank is 3 and no lower slot's is (42_tlb.md R107). -/
def IsVictim (s : State) (v : SlotIx) : Prop :=
  (s.slot v).rank = 3 ∧ ∀ j, j < v → (s.slot j).rank ≠ 3

/-- No slot has rank 3 (42_tlb.md R107; 60_exceptions.md R151). -/
def NoVictim (s : State) : Prop := ∀ i, (s.slot i).rank ≠ 3

/-- The ranks of `t` are those of `s` after slot `i` is touched (42_tlb.md R103). -/
def RanksTouched (i : SlotIx) (s t : State) : Prop :=
  (t.slot i).rank = 0 ∧
  (∀ j, j ≠ i → (s.slot j).rank < (s.slot i).rank → (t.slot j).rank.toNat = (s.slot j).rank.toNat + 1) ∧
  (∀ j, j ≠ i → ¬ (s.slot j).rank < (s.slot i).rank → (t.slot j).rank = (s.slot j).rank)

/-- The rank invariant: each rank is held by exactly one slot (10_state.md R25). -/
def RanksPermuted (s : State) : Prop :=
  ∀ r : Rank, ∃ i, (s.slot i).rank = r ∧ ∀ j, (s.slot j).rank = r → j = i

/-- Each Occupied slot agrees with the page table or still holds the reset contents 0 -> 0 (20_memory.md R53). -/
def Coherent (s : State) : Prop :=
  ∀ i, (s.slot i).valid = true →
    ((s.slot i).vpn = 0 ∧ (s.slot i).ppn = 0) ∨
    ((s.pte (s.slot i).vpn).valid = true ∧ (s.pte (s.slot i).vpn).ppn = (s.slot i).ppn)

/-- Every Occupied slot has a lower rank than every Empty slot (42_tlb.md R110). -/
def OccupiedBelowEmpty (s : State) : Prop :=
  ∀ i j, (s.slot i).valid = true → (s.slot j).valid = false → (s.slot i).rank < (s.slot j).rank

/-- The slots in the order of their most recent touch, most recent first, are `order` (42_tlb.md R114): `order` has
the four slots, each at the place its rank names. -/
def RankedInOrder (order : List SlotIx) (s : State) : Prop :=
  order.length = 4 ∧ ∀ i, order[(s.slot i).rank.toNat]? = some i

/-- The recency order after slot `i` is used: `i` first, the others as they were (42_tlb.md R114). -/
def mostRecent (i : SlotIx) (order : List SlotIx) : List SlotIx := i :: order.erase i

/-- The opcode of a word as a number, bits 31:28 (30_encoding.md R61). -/
abbrev opcodeOf (w : Word) : Nat := (w.extractLsb' 28 4).toNat

/-- The opcode of the word is reserved: 0x0 or 0xA to 0xF (30_encoding.md R63, R70). -/
def ReservedOpcode (w : Word) : Prop := opcodeOf w = 0 ∨ 10 ≤ opcodeOf w

/-- The opcode of the word is assigned and a reserved-zero bit of its format is set (30_encoding.md R62, R69). -/
def ReservedBitSet (w : Word) : Prop :=
  ((opcodeOf w = 1 ∨ opcodeOf w = 8) ∧ w.extractLsb' 16 12 ≠ 0) ∨
  ((opcodeOf w = 2 ∨ opcodeOf w = 6) ∧ w.extractLsb' 4 24 ≠ 0) ∨
  (opcodeOf w = 3 ∧ w.extractLsb' 2 26 ≠ 0) ∨
  ((opcodeOf w = 4 ∨ opcodeOf w = 7) ∧ w.extractLsb' 0 28 ≠ 0) ∨
  (opcodeOf w = 5 ∧ (w.extractLsb' 12 16 ≠ 0 ∨ w.extractLsb' 2 2 ≠ 0)) ∨
  (opcodeOf w = 9 ∧ w.extractLsb' 20 8 ≠ 0)

/-- What an uncached walk of the page table answers to TRANSLATE, whatever slot and hit bit (20_memory.md R49). -/
def AnswersAsWalk (s : State) (va : Addr) (t : State) : Prop :=
  ((s.pte (va.extractLsb' 12 4)).valid = true → ∃ hit slot,
    Answers t 0 hit slot (BitVec.ofNat 16 ((s.pte (va.extractLsb' 12 4)).ppn.toNat * 4096 + va.toNat % 4096))) ∧
  ((s.pte (va.extractLsb' 12 4)).valid = false → Answers t 1 false 0 va)

/-- A safe state of a run: the rank invariant holds and the block is not halted (10_state.md R25, R30). -/
def Safe (s : State) : Prop := RanksPermuted s ∧ s.fatal = false

end Sys2Proof.Machine
end

