-- ==== Sys2Proof/Certificates/Slice0/Obligations.lean ====
section
/-! DEFINITION. The statements for the provers, in the order of the spec's files. The predicates they use are in
Safety.lean and read the state and the response by fields and bit positions. `exec` is the `case op` of the step
(30_encoding.md R72): it is reached only with `fatal = 0`, which `StepRunsTheDecodedCommand` says (log entry 5). -/

open Sys2Proof Sys2Proof.Machine

/-! ### State (10_state.md) -/

/-- 10_state.md R24, R28: the packed forms of a slot and of a page-table entry have the stated bit positions, and a
packed slot unpacks to the slot. That PTLOOKUP answers in the second form is `PtlookupAnswersTheStoredEntry`. -/
def Obligations.PackedFormsFollowTheirLayout : Prop :=
  (∀ sl : Slot,
    (packSlot sl).toNat = sl.valid.toNat * 1024 + sl.rank.toNat * 256 + sl.vpn.toNat * 16 + sl.ppn.toNat ∧
    unpackSlot (packSlot sl) = sl) ∧
  (∀ e : PTE, (packPte e).toNat = e.valid.toNat * 16 + e.ppn.toNat)

/-- 10_state.md R25: every step keeps the ranks a permutation of {0, 1, 2, 3}, whatever is presented and whatever else
the state holds. -/
def Obligations.EveryStepKeepsRanksPermuted : Prop :=
  ∀ s t, RanksPermuted s → step s = .next t → RanksPermuted t

/-- 10_state.md R25, 70_reset_and_hazards.md R171, R172: the ranks are a permutation after reset with any parameters,
the block is not halted, and the first victim is slot 3 (R171's own derived sentence). -/
def Obligations.ResetIsSafe : Prop :=
  Safe State.reset ∧ ∀ p, Safe (State.resetWith p) ∧ IsVictim (State.resetWith p) 3

/-- 10_state.md R26: TRANSLATE never creates a duplicate. Two different slots that hold the same page after it held
that page, both of them, before it. -/
def Obligations.TranslateNeverDuplicatesAPage : Prop :=
  ∀ s t va i j n, exec (.translate va) s = .next t → i ≠ j → Holds t i n → Holds t j n →
    Holds s i n ∧ Holds s j n

/-- 10_state.md R29, 41_page_table.md R92: a step that changes the page table is a reset. -/
def Obligations.OnlyResetWritesThePageTable : Prop :=
  ∀ s t, step s = .next t → t.pt ≠ s.pt → ∃ p rest, s.events = .reset p :: rest ∧ t.pt = p.ptFill

/-- 10_state.md R23, 20_memory.md R52: a step that makes an Occupied slot Empty is a reset. -/
def Obligations.OnlyResetEmptiesASlot : Prop :=
  ∀ s t i, step s = .next t → (s.slot i).valid = true → (t.slot i).valid = false →
    ∃ p rest, s.events = .reset p :: rest

/-! ### Memory and ordering (20_memory.md) -/

/-- 20_memory.md R44: a word moves as four bytes, byte 0 first with bits 7:0, and its bytes give it back. -/
def Obligations.WordsMoveLittleEndian : Prop :=
  ∀ w : Word, ∃ b0 b1 b2 b3 : Byte, wordBytes w = [b0, b1, b2, b3] ∧ bytesWord b0 b1 b2 b3 = w ∧
    w.toNat = b0.toNat + b1.toNat * 256 + b2.toNat * 65536 + b3.toNat * 16777216

/-- 20_memory.md R47: every command is idempotent in state, and only TRANSLATE's response can differ between two runs
in a row. -/
def Obligations.EveryCommandIsIdempotentInState : Prop :=
  ∀ i s t, exec i s = .next t → ∃ u, exec i t = .next u ∧ SameStorage t u ∧
    ((∀ va, i ≠ .translate va) → u.response = t.response)

/-- 20_memory.md R53: a coherent TLB stays coherent through every step whose command is not INSTALL, resets included.
-/
def Obligations.StepsButInstallKeepCoherence : Prop :=
  ∀ s t, Coherent s →
    (∀ w rest slot ppn vpn, s.events = .command w :: rest → decodeWord w ≠ .ok (.install slot ppn vpn)) →
    step s = .next t → Coherent t

/-- 20_memory.md R49, R51, R53: with a coherent TLB and permuted ranks, TRANSLATE of any page but an unmapped or moved
page 0 answers what an uncached walk of the page table answers. The cache is transparent. -/
def Obligations.CoherentTranslateEqualsTheWalk : Prop :=
  ∀ s va, Coherent s → RanksPermuted s →
    (va.extractLsb' 12 4 ≠ 0 ∨ s.pte 0 = { valid := true, ppn := 0 }) →
    ∃ t, exec (.translate va) s = .next t ∧ AnswersAsWalk s va t

/-! ### Encoding, decoding and the step (30_encoding.md) -/

/-- 30_encoding.md R62, R63, R73: decoding the word of a command gives the command back, and so does decoding its four
bytes at the head of a stream, with every operand at every value. -/
def Obligations.DecodeGivesBackEveryEncodedCommand : Prop :=
  ∀ i : Instr, decodeWord (encode i) = .ok i ∧
    ∀ rest, decodeBytes (wordBytes (encode i) ++ rest) = .ok (i, rest)

/-- 30_encoding.md R74, 92_eei_decisions.md D5: one word, one command. A word that decodes is the word of the command
it decodes to. -/
def Obligations.DecodingIsInjective : Prop :=
  ∀ w i, decodeWord w = .ok i → encode i = w

/-- 30_encoding.md R71, which the spec derives from R62, R63, R69 and R70: every word is exactly one of one command
with its operands or ILLEGAL_COMMAND, and it decodes to a command exactly when it matches the command's row of the
opcode table under the row's mask. -/
def Obligations.WordsDecodeByMaskAndMatch : Prop :=
  ∀ w : Word,
    (∀ va, decodeWord w = .ok (.translate va) ↔ w &&& 0xFFFF0000 = 0x10000000 ∧ va = w.extractLsb' 0 16) ∧
    (∀ pn, decodeWord w = .ok (.find pn) ↔ w &&& 0xFFFFFFF0 = 0x20000000 ∧ pn = w.extractLsb' 0 4) ∧
    (∀ slot, decodeWord w = .ok (.touch slot) ↔
      w &&& 0xFFFFFFFC = 0x30000000 ∧ slot.val = (w.extractLsb' 0 2).toNat) ∧
    (decodeWord w = .ok .victim ↔ w &&& 0xFFFFFFFF = 0x40000000) ∧
    (∀ slot ppn vpn, decodeWord w = .ok (.install slot ppn vpn) ↔
      w &&& 0xFFFFF00C = 0x50000000 ∧ slot.val = (w.extractLsb' 0 2).toNat ∧ ppn = w.extractLsb' 4 4 ∧
        vpn = w.extractLsb' 8 4) ∧
    (∀ pn, decodeWord w = .ok (.ptlookup pn) ↔ w &&& 0xFFFFFFF0 = 0x60000000 ∧ pn = w.extractLsb' 0 4) ∧
    (decodeWord w = .ok .ranks ↔ w &&& 0xFFFFFFFF = 0x70000000) ∧
    (∀ va, decodeWord w = .ok (.pgnum va) ↔ w &&& 0xFFFF0000 = 0x80000000 ∧ va = w.extractLsb' 0 16) ∧
    (∀ va ppn, decodeWord w = .ok (.physaddr va ppn) ↔
      w &&& 0xFFF00000 = 0x90000000 ∧ va = w.extractLsb' 0 16 ∧ ppn = w.extractLsb' 16 4) ∧
    ((∀ i, decodeWord w ≠ .ok i) → ∀ s rest, s.events = .command w :: rest → s.fatal = false →
      ∃ t, step s = .next t ∧ Answers t 3 false 0 0 ∧ SameStorage s t ∧ t.events = rest)

/-- 30_encoding.md R69, R70, 60_exceptions.md R152: a word with a reserved opcode, or with an assigned opcode and a
reserved-zero bit of its format set, answers ILLEGAL_COMMAND with every other field 0 and changes no state. -/
def Obligations.IllegalWordsAnswerAndChangeNothing : Prop :=
  ∀ (s : State) (w : Word) (rest : List HostEvent), s.events = .command w :: rest → s.fatal = false →
    ReservedOpcode w ∨ ReservedBitSet w →
    ∃ t, step s = .next t ∧ Answers t 3 false 0 0 ∧ SameStorage s t ∧ t.events = rest

/-- Sample words written out from 30_encoding.md R62, R63 and the worked examples decode to their commands. -/
def Obligations.SampleWordsDecode : Prop :=
  decodeWord 0x10009042 = .ok (.translate 0x9042) ∧
  decodeWord 0x2000000C = .ok (.find 0xC) ∧
  decodeWord 0x30000002 = .ok (.touch 2) ∧
  decodeWord 0x40000000 = .ok .victim ∧
  decodeWord 0x50000CA3 = .ok (.install 3 0xA 0xC) ∧
  decodeWord 0x60000009 = .ok (.ptlookup 9) ∧
  decodeWord 0x70000000 = .ok .ranks ∧
  decodeWord 0x80009042 = .ok (.pgnum 0x9042) ∧
  decodeWord 0x90029042 = .ok (.physaddr 0x9042 2)

/-- 30_encoding.md R73: what the assembler emits for each form, and that it emits no word for an operand out of its
range. -/
def Obligations.AssemblerEmitsTheTablesWords : Prop :=
  (∀ va, assembleLine { mnemonic := .translate, operands := [va] } =
    if va ≤ 0xFFFF then .ok (BitVec.ofNat 32 (0x10000000 + va)) else .error (.operandRange .translate)) ∧
  (∀ pn, assembleLine { mnemonic := .find, operands := [pn] } =
    if pn ≤ 15 then .ok (BitVec.ofNat 32 (0x20000000 + pn)) else .error (.operandRange .find)) ∧
  (∀ slot, assembleLine { mnemonic := .touch, operands := [slot] } =
    if slot ≤ 3 then .ok (BitVec.ofNat 32 (0x30000000 + slot)) else .error (.operandRange .touch)) ∧
  assembleLine { mnemonic := .victim, operands := [] } = .ok 0x40000000 ∧
  (∀ slot ppn vpn, assembleLine { mnemonic := .install, operands := [slot, ppn, vpn] } =
    if slot ≤ 3 ∧ ppn ≤ 15 ∧ vpn ≤ 15
    then .ok (BitVec.ofNat 32 (0x50000000 + vpn * 256 + ppn * 16 + slot)) else .error (.operandRange .install)) ∧
  (∀ pn, assembleLine { mnemonic := .ptlookup, operands := [pn] } =
    if pn ≤ 15 then .ok (BitVec.ofNat 32 (0x60000000 + pn)) else .error (.operandRange .ptlookup)) ∧
  assembleLine { mnemonic := .ranks, operands := [] } = .ok 0x70000000 ∧
  (∀ va, assembleLine { mnemonic := .pgnum, operands := [va] } =
    if va ≤ 0xFFFF then .ok (BitVec.ofNat 32 (0x80000000 + va)) else .error (.operandRange .pgnum)) ∧
  (∀ va ppn, assembleLine { mnemonic := .physaddr, operands := [va, ppn] } =
    if va ≤ 0xFFFF ∧ ppn ≤ 15
    then .ok (BitVec.ofNat 32 (0x90000000 + ppn * 65536 + va)) else .error (.operandRange .physaddr))

/-- 30_encoding.md R72: with `fatal = 0`, a step on a word that decodes is the command, executed on the state that
holds what the host does next. -/
def Obligations.StepRunsTheDecodedCommand : Prop :=
  ∀ s w rest i, s.events = .command w :: rest → s.fatal = false → decodeWord w = .ok i →
    step s = exec i { s with events := rest }

/-- 30_encoding.md R72, R60, R65: a step on a presented word always answers a next state, which shows one response
word of the stated layout, takes nothing from the host but the word, and holds the page table. The first clause says
it of every state: for a reset it rests on log entry 2, and where nothing is presented it is the model's choice of log
entry 8, not R72, which is total on a state and a word. -/
def Obligations.EveryWordGetsOneResponse : Prop :=
  (∀ s, ∃ t, step s = .next t) ∧
  ∀ s w rest, s.events = .command w :: rest →
    ∃ t status hit slot data, step s = .next t ∧ Answers t status hit slot data ∧ t.events = rest ∧ t.pt = s.pt

/-- 30_encoding.md R64, "may write": a command writes nothing beyond its row. Slots keep their mapping except the one
INSTALL names and, for TRANSLATE, one of rank 3 on a miss; ranks change only by TRANSLATE on a hit or a fill, TOUCH
and INSTALL; `fatal` only by TRANSLATE and VICTIM where they take the internal fault, which writes nothing else; a
page fault writes nothing; the page table never changes. -/
def Obligations.CommandsWriteOnlyTheirRow : Prop :=
  (∀ i s t, exec i s = .next t → t.pt = s.pt ∧ t.events = s.events) ∧
  (∀ va s t, exec (.translate va) s = .next t →
    (∀ j, (s.slot j).rank ≠ 3 ∨ (∃ i, Finds s (va.extractLsb' 12 4) i) →
      (t.slot j).valid = (s.slot j).valid ∧ (t.slot j).vpn = (s.slot j).vpn ∧ (t.slot j).ppn = (s.slot j).ppn) ∧
    (t.fatal ≠ s.fatal → t.slots = s.slots ∧ NoVictim s) ∧
    ((∃ i, Finds s (va.extractLsb' 12 4) i) → SameButRanks s t) ∧
    (Misses s (va.extractLsb' 12 4) →
      ((s.pte (va.extractLsb' 12 4)).valid = false → SameStorage s t) ∧
      ((s.pte (va.extractLsb' 12 4)).valid = true →
        (NoVictim s → t.slots = s.slots) ∧ (¬ NoVictim s → t.fatal = s.fatal)))) ∧
  (∀ pn s t, exec (.find pn) s = .next t → SameStorage s t) ∧
  (∀ slot s t, exec (.touch slot) s = .next t → SameButRanks s t) ∧
  (∀ s t, exec .victim s = .next t → t.slots = s.slots ∧ (t.fatal ≠ s.fatal → NoVictim s)) ∧
  (∀ slot ppn vpn s t, exec (.install slot ppn vpn) s = .next t → SameButSlots s t ∧
    ∀ j, j ≠ slot →
      (t.slot j).valid = (s.slot j).valid ∧ (t.slot j).vpn = (s.slot j).vpn ∧ (t.slot j).ppn = (s.slot j).ppn) ∧
  (∀ pn s t, exec (.ptlookup pn) s = .next t → SameStorage s t) ∧
  (∀ s t, exec .ranks s = .next t → SameStorage s t) ∧
  (∀ va s t, exec (.pgnum va) s = .next t → SameStorage s t) ∧
  (∀ va ppn s t, exec (.physaddr va ppn) s = .next t → SameStorage s t)

/-- 30_encoding.md R64, "reads": what a command answers and writes depends on nothing beyond its row. Two states that
agree on what the row lets the command read give the same response and the same values in what it may write: slots or
ranks, and for TRANSLATE and VICTIM `fatal`, which they set or leave, so it agrees after where it agreed before. -/
def Obligations.CommandsReadOnlyTheirRow : Prop :=
  (∀ va s s' t t', exec (.translate va) s = .next t → exec (.translate va) s' = .next t' → s'.slots = s.slots →
    (Misses s (va.extractLsb' 12 4) → s'.pte (va.extractLsb' 12 4) = s.pte (va.extractLsb' 12 4)) →
    t'.response = t.response ∧ t'.slots = t.slots ∧ (s'.fatal = s.fatal → t'.fatal = t.fatal)) ∧
  (∀ pn s s' t t', exec (.find pn) s = .next t → exec (.find pn) s' = .next t' →
    (∀ i, (s'.slot i).valid = (s.slot i).valid ∧ (s'.slot i).vpn = (s.slot i).vpn) →
    t'.response = t.response) ∧
  (∀ slot s s' t t', exec (.touch slot) s = .next t → exec (.touch slot) s' = .next t' →
    (∀ i, (s'.slot i).rank = (s.slot i).rank) →
    t'.response = t.response ∧ ∀ i, (t'.slot i).rank = (t.slot i).rank) ∧
  (∀ s s' t t', exec .victim s = .next t → exec .victim s' = .next t' →
    (∀ i, (s'.slot i).rank = (s.slot i).rank) →
    t'.response = t.response ∧ (s'.fatal = s.fatal → t'.fatal = t.fatal)) ∧
  (∀ slot ppn vpn s s' t t', exec (.install slot ppn vpn) s = .next t → exec (.install slot ppn vpn) s' = .next t' →
    (∀ i, (s'.slot i).rank = (s.slot i).rank) →
    t'.response = t.response ∧ t'.slot slot = t.slot slot ∧ ∀ i, (t'.slot i).rank = (t.slot i).rank) ∧
  (∀ pn s s' t t', exec (.ptlookup pn) s = .next t → exec (.ptlookup pn) s' = .next t' → s'.pte pn = s.pte pn →
    t'.response = t.response) ∧
  (∀ s s' t t', exec .ranks s = .next t → exec .ranks s' = .next t' →
    (∀ i, (s'.slot i).rank = (s.slot i).rank) → t'.response = t.response) ∧
  (∀ va s s' t t', exec (.pgnum va) s = .next t → exec (.pgnum va) s' = .next t' → t'.response = t.response) ∧
  (∀ va ppn s s' t t', exec (.physaddr va ppn) s = .next t → exec (.physaddr va ppn) s' = .next t' →
    t'.response = t.response)

/-! ### Address codec (40_address_codec.md) -/

/-- 40_address_codec.md R80, R82: PGNUM completes with the page number, va[15:12], and changes nothing; the offset is
va[11:0]. -/
def Obligations.PgnumAnswersThePageNumber : Prop :=
  ∀ (va : Addr) (s : State),
    pageNumber va = va.extractLsb' 12 4 ∧ pageOffset va = va.extractLsb' 0 12 ∧
    ∃ t, exec (.pgnum va) s = .next t ∧ Answers t 0 false 0 ((va.extractLsb' 12 4).setWidth 16) ∧
      SameButResponse s t

/-- 40_address_codec.md R81, R83: PHYSADDR completes with the page number replaced and the offset kept, `{ppn,
va[11:0]}`, and changes nothing; va[15:12] has no influence. -/
def Obligations.PhysaddrAnswersTheSubstitution : Prop :=
  ∀ (va : Addr) (ppn : PageNo) (s : State),
    ((physicalAddress va ppn).extractLsb' 12 4 = ppn ∧
      (physicalAddress va ppn).extractLsb' 0 12 = va.extractLsb' 0 12 ∧
      ∀ va', va'.extractLsb' 0 12 = va.extractLsb' 0 12 → physicalAddress va' ppn = physicalAddress va ppn) ∧
    ∃ t, exec (.physaddr va ppn) s = .next t ∧ Answers t 0 false 0 (physicalAddress va ppn) ∧ SameButResponse s t

/-- The codec in unsigned arithmetic, the derived sentences of 40_address_codec.md R80 and R81: the page number is
`floor(va / 4096)`, the offset `va mod 4096`, and the physical address `(ppn << 12) | (va & 0x0FFF)`, which is a sum
with no carry. -/
def Obligations.CodecAgreesWithArithmetic : Prop :=
  ∀ (va : Addr) (ppn : PageNo),
    (pageNumber va).toNat = va.toNat / 4096 ∧ (pageOffset va).toNat = va.toNat % 4096 ∧
    physicalAddress va ppn = ppn.setWidth 16 <<< 12 ||| (va &&& 0x0FFF) ∧
    (physicalAddress va ppn).toNat = ppn.toNat * 4096 + va.toNat % 4096

/-- The split round-trip of 40_address_codec.md R84, which the spec derives from R80 and R81. -/
def Obligations.SplitRoundTrip : Prop :=
  ∀ (v : Addr) (p : PageNo),
    (physicalAddress v p).extractLsb' 0 12 = v.extractLsb' 0 12 ∧
    pageNumber (physicalAddress v p) = p ∧
    physicalAddress v (pageNumber v) = v

/-! ### Page table (41_page_table.md) -/

/-- 41_page_table.md R90, R91: PTLOOKUP completes with bit 4 the entry's valid bit and bits 3:0 its stored ppn, valid
or not, and changes nothing. -/
def Obligations.PtlookupAnswersTheStoredEntry : Prop :=
  ∀ (pn : PageNo) (s : State), ∃ t, exec (.ptlookup pn) s = .next t ∧
    Answers t 0 false 0
      (BitVec.ofNat 16 ((s.pt[pn.toNat]'pn.isLt).valid.toNat * 16 + (s.pt[pn.toNat]'pn.isLt).ppn.toNat)) ∧
    SameButResponse s t

/-! ### TLB (42_tlb.md) -/

/-- 42_tlb.md R100, R101: FIND completes with the lowest matching slot, or with no hit where no slot matches, and
changes nothing. -/
def Obligations.FindAnswersTheLowestMatch : Prop :=
  ∀ (pn : PageNo) (s : State), ∃ t, exec (.find pn) s = .next t ∧ SameButResponse s t ∧
    (∀ i, Finds s pn i → Answers t 0 true i 0) ∧ (Misses s pn → Answers t 0 false 0 0)

/-- 42_tlb.md R103, R104: TOUCH completes, makes the slot rank 0, adds one to every rank below the slot's old one, and
changes nothing else. -/
def Obligations.TouchReranksAllFour : Prop :=
  ∀ (i : SlotIx) (s : State), ∃ t, exec (.touch i) s = .next t ∧ Answers t 0 false i 0 ∧ RanksTouched i s t ∧
    SameButRanks s t

/-- 42_tlb.md R105, which the spec derives from R103: TOUCH keeps the rank permutation and the relative order of every
pair of other slots; touching the rank-3 slot adds one to every other rank (R104's corner case, R112). -/
def Obligations.TouchKeepsPermutationAndOrder : Prop :=
  ∀ i s t, RanksPermuted s → exec (.touch i) s = .next t → RanksPermuted t ∧
    (∀ j k, j ≠ i → k ≠ i → ((t.slot j).rank < (t.slot k).rank ↔ (s.slot j).rank < (s.slot k).rank)) ∧
    ((s.slot i).rank = 3 → ∀ j, j ≠ i → (t.slot j).rank.toNat = (s.slot j).rank.toNat + 1)

/-- 42_tlb.md R106, which the spec derives from R103: a touched slot has rank 0, and touching it again changes
nothing. -/
def Obligations.TouchIsIdempotent : Prop :=
  ∀ i s t u, exec (.touch i) s = .next t → exec (.touch i) t = .next u → (t.slot i).rank = 0 ∧ u = t

/-- 42_tlb.md R107, R108: VICTIM completes with the lowest slot of rank 3 where there is one, and changes nothing;
where there is none it takes the internal fault, which writes `fatal` alone. -/
def Obligations.VictimAnswersTheRankThreeSlot : Prop :=
  ∀ s : State,
    (∀ v, IsVictim s v → ∃ t, exec .victim s = .next t ∧ Answers t 0 false v 0 ∧ SameButResponse s t) ∧
    (NoVictim s → ∃ t, exec .victim s = .next t ∧ Answers t 2 false 0 0 ∧ t.fatal = true ∧ t.slots = s.slots ∧
      t.pt = s.pt ∧ t.events = s.events)

/-- 42_tlb.md R109, which the spec derives from R105: from reset with any parameters, through any commands and resets,
exactly one slot has rank 3, the `fatal` flag is never set and no response has the internal fault's status. Once the
events are used up the run goes on by idle steps, the model's choice (log entry 8). As an invariant of one step it is
`EveryStepKeepsTheBlockSafe`. -/
def Obligations.InternalFaultIsUnreachable : Prop :=
  ∀ (p : ResetParams) (events : List HostEvent) (k : Nat),
    ∃ t : State, Host.Core.run Sys2Proof.core k { State.resetWith p with events := events } = .next t ∧
      (∃ v, (t.slot v).rank = 3 ∧ ∀ j, (t.slot j).rank = 3 → j = v) ∧ t.fatal = false ∧ ¬ StatusIs t 2

/-- 42_tlb.md R110: that Occupied slots rank below Empty ones is kept by every step but a TOUCH of an Empty slot, and
holds after an ALL_EMPTY reset. -/
def Obligations.OccupiedSlotsStayBelowEmptyOnes : Prop :=
  (∀ p, p.tlbStyle = .allEmpty → OccupiedBelowEmpty (State.resetWith p)) ∧
  ∀ s t, OccupiedBelowEmpty s → RanksPermuted s →
    (∀ w rest i, s.events = .command w :: rest → decodeWord w = .ok (.touch i) → (s.slot i).valid = true) →
    step s = .next t → OccupiedBelowEmpty t

/-- 42_tlb.md R110: while Occupied slots rank below Empty ones, a miss fills an Empty slot whenever one exists, and it
is the highest-ranked one. -/
def Obligations.MissFillsAnEmptySlotFirst : Prop :=
  ∀ s va t, OccupiedBelowEmpty s → RanksPermuted s → (∃ i, (s.slot i).valid = false) →
    exec (.translate va) s = .next t → Misses s (va.extractLsb' 12 4) →
    (s.pte (va.extractLsb' 12 4)).valid = true →
    ∃ v, (s.slot v).valid = false ∧ (∀ j, (s.slot j).rank ≤ (s.slot v).rank) ∧
      Holds t v (va.extractLsb' 12 4) ∧ (∀ j, j ≠ v → (t.slot j).valid = (s.slot j).valid)

/-- 42_tlb.md R111, R113: INSTALL completes. The slot becomes {valid 1, rank 0, vpn, ppn}, every slot ranked below its
old rank moves down by one, every other slot is unchanged in all fields, and nothing else changes. -/
def Obligations.InstallOverwritesAndTouches : Prop :=
  ∀ (i : SlotIx) (ppn vpn : PageNo) (s : State), ∃ t, exec (.install i ppn vpn) s = .next t ∧
    Answers t 0 false i 0 ∧ t.slot i = { valid := true, rank := 0, vpn := vpn, ppn := ppn } ∧
    (∀ j, j ≠ i → (s.slot j).rank < (s.slot i).rank →
      t.slot j = { s.slot j with rank := (s.slot j).rank + 1 }) ∧
    (∀ j, j ≠ i → ¬ (s.slot j).rank < (s.slot i).rank → t.slot j = s.slot j) ∧
    SameButSlots s t

/-- 42_tlb.md R114, which the spec derives from R103 and R105: the ranks are the recency order, most recent first.
TOUCH, INSTALL, a TRANSLATE hit and a TRANSLATE fill bring one slot to the front of it, a fill the last one; a
TRANSLATE that page-faults and every other command leave it; reset starts it in slot order; VICTIM names its last
slot. -/
def Obligations.RanksAreTheRecencyOrder : Prop :=
  (∀ p, RankedInOrder [0, 1, 2, 3] (State.resetWith p)) ∧
  ∀ order s t, RankedInOrder order s →
    (∀ i, exec (.touch i) s = .next t → RankedInOrder (mostRecent i order) t) ∧
    (∀ i ppn vpn, exec (.install i ppn vpn) s = .next t → RankedInOrder (mostRecent i order) t) ∧
    (∀ va i, exec (.translate va) s = .next t → Finds s (va.extractLsb' 12 4) i →
      RankedInOrder (mostRecent i order) t) ∧
    (∀ va, exec (.translate va) s = .next t → Misses s (va.extractLsb' 12 4) →
      (s.pte (va.extractLsb' 12 4)).valid = true →
      ∃ v, order[3]? = some v ∧ Holds t v (va.extractLsb' 12 4) ∧ RankedInOrder (mostRecent v order) t) ∧
    (∀ va, exec (.translate va) s = .next t → Misses s (va.extractLsb' 12 4) →
      (s.pte (va.extractLsb' 12 4)).valid = false → RankedInOrder order t) ∧
    (∀ i, exec i s = .next t → (∀ va, i ≠ .translate va) → (∀ k, i ≠ .touch k) →
      (∀ k ppn vpn, i ≠ .install k ppn vpn) → RankedInOrder order t) ∧
    (exec .victim s = .next t → ∃ v, order[3]? = some v ∧ Answers t 0 false v 0)

/-- 42_tlb.md R116: RANKS completes with slot 0's rank in data[1:0] up to slot 3's in data[7:6], and changes nothing.
-/
def Obligations.RanksAnswersTheFourRanks : Prop :=
  ∀ s : State, ∃ t, exec .ranks s = .next t ∧
    Answers t 0 false 0 (BitVec.ofNat 16 ((s.slot 0).rank.toNat + (s.slot 1).rank.toNat * 4 +
      (s.slot 2).rank.toNat * 16 + (s.slot 3).rank.toNat * 64)) ∧
    SameButResponse s t

/-! ### Translator (43_translator.md) -/

/-- 43_translator.md R131: on a hit TRANSLATE completes, touches the slot found and answers with the slot's ppn,
whatever the page table holds, and changes nothing but ranks. -/
def Obligations.TranslateHitUsesTheSlot : Prop :=
  ∀ (va : Addr) (i : SlotIx) (s : State), Finds s (va.extractLsb' 12 4) i →
    ∃ t, exec (.translate va) s = .next t ∧
      Answers t 0 true i (BitVec.ofNat 16 ((s.slot i).ppn.toNat * 4096 + va.toNat % 4096)) ∧
      RanksTouched i s t ∧ SameButRanks s t ∧
      ∀ pt' : Vector PTE 16, exec (.translate va) { s with pt := pt' } = .next { t with pt := pt' }

/-- 43_translator.md R132, 60_exceptions.md R150: on a miss with an invalid entry TRANSLATE answers PageFault with the
VA and writes no state, which R132 marks as derived from the source's step order. -/
def Obligations.TranslateFaultsOnAnInvalidEntry : Prop :=
  ∀ (va : Addr) (s : State), Misses s (va.extractLsb' 12 4) → (s.pte (va.extractLsb' 12 4)).valid = false →
    ∃ t, exec (.translate va) s = .next t ∧ Answers t 1 false 0 va ∧ SameButResponse s t

/-- 43_translator.md R133: on a miss with a valid entry and a slot `v` of rank 3, Occupied or Empty, TRANSLATE
completes: it installs the entry's mapping in `v` and answers with the physical address in the same command. Every
other slot keeps its mapping. -/
def Obligations.TranslateFillsTheVictim : Prop :=
  ∀ (va : Addr) (v : SlotIx) (s : State), Misses s (va.extractLsb' 12 4) →
    (s.pte (va.extractLsb' 12 4)).valid = true → IsVictim s v →
    ∃ t, exec (.translate va) s = .next t ∧
      Answers t 0 false v (BitVec.ofNat 16 ((s.pte (va.extractLsb' 12 4)).ppn.toNat * 4096 + va.toNat % 4096)) ∧
      t.slot v =
        { valid := true, rank := 0, vpn := va.extractLsb' 12 4, ppn := (s.pte (va.extractLsb' 12 4)).ppn } ∧
      RanksTouched v s t ∧
      (∀ j, j ≠ v →
        (t.slot j).valid = (s.slot j).valid ∧ (t.slot j).vpn = (s.slot j).vpn ∧ (t.slot j).ppn = (s.slot j).ppn) ∧
      SameButSlots s t

/-- 43_translator.md R133, R134(c): after a TRANSLATE that answered OK, the same one again hits the same slot, answers
the same physical address and changes no state. -/
def Obligations.RepeatedTranslateHits : Prop :=
  ∀ va s t hit slot data, exec (.translate va) s = .next t → Answers t 0 hit slot data →
    ∃ u, exec (.translate va) t = .next u ∧ Answers u 0 true slot data ∧ SameButResponse t u

/-- 43_translator.md R134(a), (b): after an ALL_VALID_ZERO reset, whatever the page table, a VA of page 0 hits slot 0
and is its own PA; after an ALL_EMPTY reset the first TRANSLATE of any VA misses. -/
def Obligations.FirstTranslateAfterReset : Prop :=
  ∀ (p : ResetParams) (va : Addr),
    (p.tlbStyle = .allValidZero → va.extractLsb' 12 4 = 0 →
      ∃ t, exec (.translate va) (State.resetWith p) = .next t ∧ Answers t 0 true 0 va) ∧
    (p.tlbStyle = .allEmpty →
      ∃ t status slot data, exec (.translate va) (State.resetWith p) = .next t ∧ Answers t status false slot data)

/-- 43_translator.md R134(e): the offset bits of the VA influence neither hit, miss, fault nor victim: two VAs of one
page leave the same storage and the same status, hit and slot. -/
def Obligations.OffsetNeverChoosesThePath : Prop :=
  ∀ va va' s t t' status hit slot data status' hit' slot' data', va'.extractLsb' 12 4 = va.extractLsb' 12 4 →
    exec (.translate va) s = .next t → exec (.translate va') s = .next t' →
    Answers t status hit slot data → Answers t' status' hit' slot' data' →
    SameButResponse t t' ∧ status' = status ∧ hit' = hit ∧ slot' = slot

/-- 43_translator.md R135: after a miss-and-fill, the filled slot is the only one holding the page, and its mapping is
the page table's. -/
def Obligations.FillLeavesOneSlotHoldingThePage : Prop :=
  ∀ va s t slot data, exec (.translate va) s = .next t → Answers t 0 false slot data →
    Holds t slot (va.extractLsb' 12 4) ∧ (∀ j, Holds t j (va.extractLsb' 12 4) → j = slot) ∧
    (t.pte (va.extractLsb' 12 4)).valid = true ∧
    (t.slot slot).ppn = (t.pte (va.extractLsb' 12 4)).ppn

/-! ### Faults (60_exceptions.md) -/

/-- 60_exceptions.md R151: where no slot has rank 3, VICTIM, and TRANSLATE on a miss with a valid entry, answer the
internal fault, set `fatal` and write nothing else. -/
def Obligations.InternalFaultSetsFatalOnly : Prop :=
  ∀ s : State, NoVictim s →
    (∃ t, exec .victim s = .next t ∧ Answers t 2 false 0 0 ∧ t.fatal = true ∧ t.slots = s.slots ∧ t.pt = s.pt ∧
      t.events = s.events) ∧
    ∀ va, Misses s (va.extractLsb' 12 4) → (s.pte (va.extractLsb' 12 4)).valid = true →
      ∃ t, exec (.translate va) s = .next t ∧ Answers t 2 false 0 0 ∧ t.fatal = true ∧ t.slots = s.slots ∧
        t.pt = s.pt ∧ t.events = s.events

/-- 10_state.md R30, 60_exceptions.md R151: a step that sets `fatal` executed VICTIM, or a TRANSLATE that missed on a
valid entry, where no slot has rank 3. -/
def Obligations.FatalIsSetOnlyByAMissingVictim : Prop :=
  ∀ s t, s.fatal = false → step s = .next t → t.fatal = true →
    NoVictim s ∧ ∃ w rest, s.events = .command w :: rest ∧
      (decodeWord w = .ok .victim ∨
        ∃ va, decodeWord w = .ok (.translate va) ∧ Misses s (va.extractLsb' 12 4) ∧
          (s.pte (va.extractLsb' 12 4)).valid = true)

/-- 60_exceptions.md R153: during the fatal halt every word, legal or not, gets the internal fault's response and
writes no state, and only reset clears `fatal`. -/
def Obligations.HaltedBlockExecutesNothing : Prop :=
  (∀ s w rest, s.events = .command w :: rest → s.fatal = true →
    ∃ t, step s = .next t ∧ Answers t 2 false 0 0 ∧ SameStorage s t ∧ t.events = rest) ∧
  (∀ s t, s.fatal = true → step s = .next t → t.fatal = false → ∃ p rest, s.events = .reset p :: rest) ∧
  (∀ s p rest, s.events = .reset p :: rest → ∃ t, step s = .next t ∧ t.fatal = false)

/-- 60_exceptions.md R155: faults are precise. A step on a word that answers any status but OK leaves the slots and
the page table as they were, and `fatal` too unless the status is the internal fault's. -/
def Obligations.FaultsArePrecise : Prop :=
  ∀ s t w rest status, s.events = .command w :: rest → step s = .next t → StatusIs t status → status ≠ 0 →
    t.slots = s.slots ∧ t.pt = s.pt ∧ t.events = rest ∧ (status ≠ 2 → t.fatal = s.fatal) ∧
    (status = 2 → t.fatal = true)

/-- 60_exceptions.md R165: with nothing presented the block is idle and its state is held unchanged. That an idle step
is a step at all is the model's choice (log entry 8), and that the response port, part of the model's state, goes on
showing the last response while idle is its choice too (log entry 3). -/
def Obligations.IdleBlockHoldsItsState : Prop :=
  ∀ s : State, s.events = [] → step s = .next s

/-! ### Reset (70_reset_and_hazards.md) -/

/-- 70_reset_and_hazards.md R170 to R172: reset loads the page table from `PT_FILL` and the slots by
`TLB_RESET_STYLE`, from every state, and clears `fatal`; by default the fill is the identity and the style
ALL_VALID_ZERO. Reset produces no response (R172); that the port then shows none, whatever it showed before, is the
model's choice (log entry 3). That what the host does after the reset stays is its choice too (log entry 2). -/
def Obligations.ResetLoadsItsParameters : Prop :=
  (∀ (s : State) (p : ResetParams) (rest : List HostEvent), s.events = .reset p :: rest →
    ∃ t, step s = .next t ∧
      (∀ n : PageNo, t.pte n = p.ptFill[n.toNat]'n.isLt) ∧
      (∀ i : SlotIx, (t.slot i).rank.toNat = i.val ∧ (t.slot i).vpn = 0 ∧ (t.slot i).ppn = 0 ∧
        ((t.slot i).valid = true ↔ p.tlbStyle = .allValidZero)) ∧
      t.fatal = false ∧ t.response = none ∧ t.events = rest) ∧
  (∀ n : PageNo, ResetParams.standard.ptFill[n.toNat]'n.isLt = { valid := true, ppn := n }) ∧
  ResetParams.standard.tlbStyle = .allValidZero

/-- 00_scope.md R6, 70_reset_and_hazards.md R170 to R172: the start state is the reset state of the default
parameters: the identity page table, four valid slots on page 0 ranked in slot order, not halted. -/
def Obligations.StartStateHasTheDefaults : Prop :=
  (∀ n : PageNo, State.reset.pte n = { valid := true, ppn := n }) ∧
  (∀ i : SlotIx, State.reset.slot i = { valid := true, rank := BitVec.ofNat 2 i.val, vpn := 0, ppn := 0 }) ∧
  State.reset.fatal = false

/-! ### The whole block: safety of a step, and where page faults come from -/

/-- 10_state.md R25, R30, 42_tlb.md R109, which the spec derives: a step from a safe state, one with permuted ranks
and not halted, leads to a safe state and answers no word with the internal fault. That a reset and an idle step are
steps is the model's choice (log entries 2 and 8). -/
def Obligations.EveryStepKeepsTheBlockSafe : Prop :=
  ∀ s t, Safe s → step s = .next t → Safe t ∧ ∀ w rest, s.events = .command w :: rest → ¬ StatusIs t 2

/-- 60_exceptions.md R150: a command answers PageFault exactly when it is a TRANSLATE whose page misses in the TLB and
whose page-table entry is invalid; the response carries the VA, with hit 0 and slot 0, and no state is written.
PTLOOKUP of an invalid entry is no fault. -/
def Obligations.OnlyMissingTranslatesPageFault : Prop :=
  ∀ i s t, exec i s = .next t →
    (StatusIs t 1 ↔ ∃ va, i = .translate va ∧ Misses s (va.extractLsb' 12 4) ∧
      (s.pte (va.extractLsb' 12 4)).valid = false) ∧
    ∀ va, i = .translate va → StatusIs t 1 → Answers t 1 false 0 va ∧ SameButResponse s t
end

