-- ==== Sys2Proof/Laws/State.lean ====
section
/-! SUPPORT. One lemma per field per update of State, so that no later proof unfolds a record update. -/

namespace Sys2Proof.Machine

/-! ### withSlots -/

@[simp] theorem State.withSlots_slot (f : SlotIx → Slot) (s : State) (i : SlotIx) :
    (s.withSlots f).slot i = f i := by
  simp [State.slot, State.withSlots]

@[simp] theorem State.withSlots_pte (f : SlotIx → Slot) (s : State) (n : PageNo) :
    (s.withSlots f).pte n = s.pte n := rfl

@[simp] theorem State.withSlots_pt (f : SlotIx → Slot) (s : State) : (s.withSlots f).pt = s.pt := rfl

@[simp] theorem State.withSlots_fatal (f : SlotIx → Slot) (s : State) : (s.withSlots f).fatal = s.fatal := rfl

@[simp] theorem State.withSlots_response (f : SlotIx → Slot) (s : State) :
    (s.withSlots f).response = s.response := rfl

@[simp] theorem State.withSlots_events (f : SlotIx → Slot) (s : State) : (s.withSlots f).events = s.events := rfl

/-- Two slot arrays are the same when their four slots are. -/
theorem State.slots_eq_iff (s t : State) : t.slots = s.slots ↔ ∀ i, t.slot i = s.slot i := by
  constructor
  · intro h i
    simp only [State.slot, h]
  · intro h
    ext1 i hi
    exact h ⟨i, hi⟩

/-- Two page tables are the same when their sixteen entries are. -/
theorem State.pt_eq_iff (s t : State) : t.pt = s.pt ↔ ∀ n, t.pte n = s.pte n := by
  constructor
  · intro h n
    simp only [State.pte, h]
  · intro h
    ext1 i hi
    have := h (BitVec.ofNat 4 i)
    simpa [State.pte, Nat.mod_eq_of_lt hi] using this

/-! ### respond -/

variable (st : Status) (hit : Bool) (k : SlotIx) (d : BitVec 16) (s : State)

@[simp] theorem respond_slots : (respond st hit k d s).slots = s.slots := rfl

@[simp] theorem respond_slot (i : SlotIx) : (respond st hit k d s).slot i = s.slot i := rfl

@[simp] theorem respond_pt : (respond st hit k d s).pt = s.pt := rfl

@[simp] theorem respond_pte (n : PageNo) : (respond st hit k d s).pte n = s.pte n := rfl

@[simp] theorem respond_fatal : (respond st hit k d s).fatal = s.fatal := rfl

@[simp] theorem respond_events : (respond st hit k d s).events = s.events := rfl

@[simp] theorem respond_response :
    (respond st hit k d s).response = some (responseWord st hit k d) := rfl

/-! ### the events of the host -/

variable (rest : List HostEvent)

@[simp] theorem takeEvents_slots : (takeEvents rest s).slots = s.slots := rfl

@[simp] theorem takeEvents_slot (i : SlotIx) : (takeEvents rest s).slot i = s.slot i := rfl

@[simp] theorem takeEvents_pt : (takeEvents rest s).pt = s.pt := rfl

@[simp] theorem takeEvents_pte (n : PageNo) : (takeEvents rest s).pte n = s.pte n := rfl

@[simp] theorem takeEvents_fatal : (takeEvents rest s).fatal = s.fatal := rfl

@[simp] theorem takeEvents_response : (takeEvents rest s).response = s.response := rfl

@[simp] theorem takeEvents_events : (takeEvents rest s).events = rest := rfl

variable (w : Word)

@[simp] theorem presentCommand_slots : (presentCommand w s).slots = s.slots := rfl

@[simp] theorem presentCommand_pt : (presentCommand w s).pt = s.pt := rfl

@[simp] theorem presentCommand_fatal : (presentCommand w s).fatal = s.fatal := rfl

@[simp] theorem presentCommand_response : (presentCommand w s).response = s.response := rfl

@[simp] theorem presentCommand_events : (presentCommand w s).events = .command w :: s.events := rfl

/-! ### reset -/

variable (p : ResetParams)

@[simp] theorem State.resetWith_slot (i : SlotIx) :
    (State.resetWith p).slot i = Slot.atReset p.tlbStyle i := by
  simp [State.slot, State.resetWith]

@[simp] theorem State.resetWith_pt : (State.resetWith p).pt = p.ptFill := rfl

@[simp] theorem State.resetWith_fatal : (State.resetWith p).fatal = false := rfl

@[simp] theorem State.resetWith_response : (State.resetWith p).response = none := rfl

@[simp] theorem State.resetWith_events : (State.resetWith p).events = [] := rfl

@[simp] theorem applyReset_slot (i : SlotIx) : (applyReset p s).slot i = Slot.atReset p.tlbStyle i :=
  State.resetWith_slot p i

@[simp] theorem applyReset_pt : (applyReset p s).pt = p.ptFill := rfl

@[simp] theorem applyReset_fatal : (applyReset p s).fatal = false := rfl

@[simp] theorem applyReset_response : (applyReset p s).response = none := rfl

@[simp] theorem applyReset_events : (applyReset p s).events = s.events := rfl

@[simp] theorem Slot.atReset_rank (style : TlbResetStyle) (i : SlotIx) :
    (Slot.atReset style i).rank = BitVec.ofFin i := rfl

@[simp] theorem Slot.atReset_vpn (style : TlbResetStyle) (i : SlotIx) : (Slot.atReset style i).vpn = 0 := rfl

@[simp] theorem Slot.atReset_ppn (style : TlbResetStyle) (i : SlotIx) : (Slot.atReset style i).ppn = 0 := rfl

@[simp] theorem Slot.atReset_valid (style : TlbResetStyle) (i : SlotIx) :
    (Slot.atReset style i).valid = decide (style = .allValidZero) := rfl

end Sys2Proof.Machine
end

