-- ==== Sys2Proof/Laws/Ops.lean ====
section
/-! SUPPORT. For each shared operation, one lemma that says once everything it can do, and the lemmas that carry the
predicates of Safety.lean through `respond`. Later proofs cite these and do not unfold the operations. -/

namespace Sys2Proof.Machine

/-! ### the response word -/

/-- The fields of a response word, read by their bit positions (30_encoding.md R65). -/
theorem responseWord_fields (st : Status) (hit : Bool) (k : SlotIx) (d : BitVec 16) :
    (responseWord st hit k d).extractLsb' 24 2 = statusCode st ∧
    (responseWord st hit k d).getLsbD 20 = hit ∧
    ((responseWord st hit k d).extractLsb' 16 2).toNat = k.val ∧
    (responseWord st hit k d).extractLsb' 0 16 = d ∧
    (responseWord st hit k d).extractLsb' 18 2 = 0 ∧
    (responseWord st hit k d).extractLsb' 21 3 = 0 ∧
    (responseWord st hit k d).extractLsb' 26 6 = 0 := by
  have hi : ∀ (lo len : Nat), 16 ≤ lo → (d.setWidth 32).extractLsb' lo len = 0 := by
    intro lo len h
    ext j hj
    simp [BitVec.getLsbD_of_ge d (lo + j) (by omega)]
  have lo : (d.setWidth 32).extractLsb' 0 16 = d := by
    ext j hj
    simp [hj]
    omega
  have b20 : (d.setWidth 32).getLsbD 20 = false := by simp
  unfold responseWord
  cases st <;> cases hit <;> fin_cases k <;>
    simp [BitVec.extractLsb'_or, hi, lo, statusCode]

/-- What `respond` shows, as a claim reads it (30_encoding.md R65). -/
theorem answers_respond (st : Status) (hit : Bool) (k : SlotIx) (d : BitVec 16) (s : State) :
    Answers (respond st hit k d s) (statusCode st) hit k d :=
  ⟨_, rfl, responseWord_fields st hit k d⟩

/-- The status `respond` shows. -/
theorem statusIs_respond (st : Status) (hit : Bool) (k : SlotIx) (d : BitVec 16) (s : State) :
    StatusIs (respond st hit k d s) (statusCode st) :=
  ⟨_, rfl, (responseWord_fields st hit k d).1⟩

/-- A response shows one outcome. -/
theorem Answers.unique {t : State} {a a' : BitVec 2} {h h' : Bool} {k k' : SlotIx} {d d' : BitVec 16}
    (x : Answers t a h k d) (y : Answers t a' h' k' d') : a = a' ∧ h = h' ∧ k = k' ∧ d = d' := by
  obtain ⟨w, hw, x1, x2, x3, x4, -⟩ := x
  obtain ⟨w', hw', y1, y2, y3, y4, -⟩ := y
  obtain rfl : w = w' := by simpa [hw] using hw'
  exact ⟨x1 ▸ y1, x2 ▸ y2, Fin.ext (x3 ▸ y3), x4 ▸ y4⟩

/-- An outcome's status is the status shown. -/
theorem Answers.statusIs {t : State} {a : BitVec 2} {h : Bool} {k : SlotIx} {d : BitVec 16}
    (x : Answers t a h k d) : StatusIs t a := by
  obtain ⟨w, hw, x1, -⟩ := x
  exact ⟨w, hw, x1⟩

/-- A response shows one status. -/
theorem StatusIs.unique {t : State} {a a' : BitVec 2} (x : StatusIs t a) (y : StatusIs t a') : a = a' := by
  obtain ⟨w, hw, x1⟩ := x
  obtain ⟨w', hw', y1⟩ := y
  obtain rfl : w = w' := by simpa [hw] using hw'
  exact x1 ▸ y1

/-! ### scans in slot order -/

/-- A scan in slot order gives the lowest slot that passes, if it gives one. -/
theorem scan_eq_some_iff (q : SlotIx → Bool) (i : SlotIx) :
    slotOrder.find? q = some i ↔ q i = true ∧ ∀ j, j < i → q j = false := by
  simp only [slotOrder, List.find?]
  rcases h0 : q 0 with _ | _ <;> rcases h1 : q 1 with _ | _ <;> rcases h2 : q 2 with _ | _ <;>
    rcases h3 : q 3 with _ | _ <;> fin_cases i <;> simp [Fin.forall_fin_succ, h0, h1, h2, h3]

/-- A scan in slot order gives nothing exactly when no slot passes. -/
theorem scan_eq_none_iff (q : SlotIx → Bool) : slotOrder.find? q = none ↔ ∀ i, q i = false := by
  simp [slotOrder, Fin.forall_fin_succ]

theorem slotMatches_iff (s : State) (i : SlotIx) (n : PageNo) :
    slotMatches n (s.slot i) = true ↔ Holds s i n := by
  simp [slotMatches, Holds]

/-- `find` gives the slot a lookup finds (42_tlb.md R100). -/
theorem findSlot_eq_some_iff (n : PageNo) (s : State) (i : SlotIx) :
    findSlot n s = some i ↔ Finds s n i := by
  simp only [findSlot, scan_eq_some_iff, Finds, slotMatches_iff, ← Bool.not_eq_true]

/-- `find` gives nothing exactly on a miss (42_tlb.md R100). -/
theorem findSlot_eq_none_iff (n : PageNo) (s : State) : findSlot n s = none ↔ Misses s n := by
  simp only [findSlot, scan_eq_none_iff, Misses, ← Bool.not_eq_true, slotMatches_iff]

/-- `victim` gives the lowest slot of rank 3 (42_tlb.md R107). -/
theorem victimSlot_eq_some_iff (s : State) (v : SlotIx) : victimSlot s = some v ↔ IsVictim s v := by
  simp [victimSlot, scan_eq_some_iff, IsVictim, Config.lruRank]

/-- `victim` gives nothing exactly when no slot has rank 3 (42_tlb.md R107). -/
theorem victimSlot_eq_none_iff (s : State) : victimSlot s = none ↔ NoVictim s := by
  simp only [victimSlot, scan_eq_none_iff]
  simp [NoVictim, Config.lruRank]

/-- A page is found in one slot or missed. -/
theorem finds_or_misses (s : State) (n : PageNo) : (∃ i, Finds s n i) ∨ Misses s n := by
  rcases h : findSlot n s with _ | i
  · exact .inr ((findSlot_eq_none_iff n s).1 h)
  · exact .inl ⟨i, (findSlot_eq_some_iff n s i).1 h⟩

/-- There is a victim or there is none. -/
theorem isVictim_or_noVictim (s : State) : (∃ v, IsVictim s v) ∨ NoVictim s := by
  rcases h : victimSlot s with _ | v
  · exact .inr ((victimSlot_eq_none_iff s).1 h)
  · exact .inl ⟨v, (victimSlot_eq_some_iff s v).1 h⟩

/-! ### touch and install -/

@[simp] theorem touchSlot_slot (i : SlotIx) (s : State) (j : SlotIx) :
    (touchSlot i s).slot j = { s.slot j with rank := rerank i (s.slot i).rank j (s.slot j).rank } := by
  simp [touchSlot]

@[simp] theorem touchSlot_pt (i : SlotIx) (s : State) : (touchSlot i s).pt = s.pt := rfl

@[simp] theorem touchSlot_pte (i : SlotIx) (s : State) (n : PageNo) : (touchSlot i s).pte n = s.pte n := rfl

@[simp] theorem touchSlot_fatal (i : SlotIx) (s : State) : (touchSlot i s).fatal = s.fatal := rfl

@[simp] theorem touchSlot_events (i : SlotIx) (s : State) : (touchSlot i s).events = s.events := rfl

@[simp] theorem overwriteSlot_slot (i : SlotIx) (ppn vpn : PageNo) (s : State) (j : SlotIx) :
    (overwriteSlot i ppn vpn s).slot j =
      if j = i then { s.slot j with valid := true, vpn := vpn, ppn := ppn } else s.slot j := by
  simp [overwriteSlot]

theorem overwriteSlot_rank (i : SlotIx) (ppn vpn : PageNo) (s : State) (j : SlotIx) :
    ((overwriteSlot i ppn vpn s).slot j).rank = (s.slot j).rank := by
  rw [overwriteSlot_slot]
  split <;> rfl

@[simp] theorem installSlot_pt (i : SlotIx) (ppn vpn : PageNo) (s : State) :
    (installSlot i ppn vpn s).pt = s.pt := rfl

@[simp] theorem installSlot_pte (i : SlotIx) (ppn vpn : PageNo) (s : State) (n : PageNo) :
    (installSlot i ppn vpn s).pte n = s.pte n := rfl

@[simp] theorem installSlot_fatal (i : SlotIx) (ppn vpn : PageNo) (s : State) :
    (installSlot i ppn vpn s).fatal = s.fatal := rfl

@[simp] theorem installSlot_events (i : SlotIx) (ppn vpn : PageNo) (s : State) :
    (installSlot i ppn vpn s).events = s.events := rfl

/-- Everything `install` does to a slot (42_tlb.md R111, R112). -/
theorem installSlot_slot (i : SlotIx) (ppn vpn : PageNo) (s : State) (j : SlotIx) :
    (installSlot i ppn vpn s).slot j =
      if j = i then { valid := true, rank := 0, vpn := vpn, ppn := ppn }
      else { s.slot j with rank := rerank i (s.slot i).rank j (s.slot j).rank } := by
  simp only [installSlot, touchSlot_slot, overwriteSlot_slot, if_true]
  split
  · next h => simp [h, rerank]
  · rfl

/-- Every slot whose ranks are those of `touchSlot` is reranked as R103 says (42_tlb.md R103). -/
theorem ranksTouched_of_rerank {i : SlotIx} {s t : State}
    (h : ∀ j, (t.slot j).rank = rerank i (s.slot i).rank j (s.slot j).rank) : RanksTouched i s t := by
  refine ⟨by simp [h, rerank], fun j hj hlt => ?_, fun j hj hge => by simp [h, rerank, hj, hge]⟩
  simp only [h, rerank, if_neg hj, if_pos hlt]
  have := BitVec.lt_def.1 hlt
  have := (s.slot i).rank.isLt
  rw [BitVec.toNat_add]
  simp
  omega

/-- What `touch` does to the ranks (42_tlb.md R103). -/
theorem ranksTouched_touchSlot (i : SlotIx) (s : State) : RanksTouched i s (touchSlot i s) :=
  ranksTouched_of_rerank fun j => by simp

/-- What `install` does to the ranks (42_tlb.md R111). -/
theorem ranksTouched_installSlot (i : SlotIx) (ppn vpn : PageNo) (s : State) :
    RanksTouched i s (installSlot i ppn vpn s) :=
  ranksTouched_of_rerank fun j => by
    rw [installSlot_slot]
    split
    · next h => simp [h, rerank]
    · rfl

/-! ### faults -/

@[simp] theorem takeFault_slots (c : Cause) (s : State) : (takeFault c s).slots = s.slots := by
  cases c <;> rfl

@[simp] theorem takeFault_slot (c : Cause) (s : State) (i : SlotIx) : (takeFault c s).slot i = s.slot i := by
  cases c <;> rfl

@[simp] theorem takeFault_pt (c : Cause) (s : State) : (takeFault c s).pt = s.pt := by
  cases c <;> rfl

@[simp] theorem takeFault_pte (c : Cause) (s : State) (n : PageNo) : (takeFault c s).pte n = s.pte n := by
  cases c <;> rfl

@[simp] theorem takeFault_events (c : Cause) (s : State) : (takeFault c s).events = s.events := by
  cases c <;> rfl

@[simp] theorem takeFault_pageFault_fatal (va : Addr) (s : State) :
    (takeFault (.pageFault va) s).fatal = s.fatal := rfl

@[simp] theorem takeFault_internalConsistency_fatal (s : State) :
    (takeFault .internalConsistency s).fatal = true := rfl

@[simp] theorem takeFault_illegalCommand_fatal (s : State) :
    (takeFault .illegalCommand s).fatal = s.fatal := rfl

/-- What a page fault shows (60_exceptions.md R150). -/
theorem answers_pageFault (va : Addr) (s : State) : Answers (takeFault (.pageFault va) s) 1 false 0 va :=
  answers_respond .pageFault false 0 va s

/-- What the internal fault shows (60_exceptions.md R151). -/
theorem answers_internalConsistency (s : State) :
    Answers (takeFault .internalConsistency s) 2 false 0 0 :=
  answers_respond .internalConsistencyFault false 0 0 { s with fatal := true }

/-- What an illegal word shows (60_exceptions.md R152). -/
theorem answers_illegalCommand (s : State) : Answers (takeFault .illegalCommand s) 3 false 0 0 :=
  answers_respond .illegalCommand false 0 0 s

end Sys2Proof.Machine
end

