-- ==== Sys2Proof/Laws/Commands.lean ====
section
/-! SUPPORT. What each command and each step can do, said once: inversion lemmas that later proofs cite instead of
unfolding a meaning or the step. -/

namespace Sys2Proof.Machine

/-- The four paths of TRANSLATE (43_translator.md R130): hit, page fault, fill, and no victim. -/
theorem exec_translate_cases {va : Addr} {s t : State} (h : exec (.translate va) s = .next t) :
    (∃ i, Finds s (pageNumber va) i ∧ t = translateHit va i s) ∨
    (Misses s (pageNumber va) ∧ (s.pte (pageNumber va)).valid = false ∧ t = takeFault (.pageFault va) s) ∨
    (∃ v, Misses s (pageNumber va) ∧ (s.pte (pageNumber va)).valid = true ∧ IsVictim s v ∧
      t = translateFill va (s.pte (pageNumber va)).ppn v s) ∨
    (Misses s (pageNumber va) ∧ (s.pte (pageNumber va)).valid = true ∧ NoVictim s ∧
      t = takeFault .internalConsistency s) := by
  simp only [exec, execTranslate] at h
  rcases hf : findSlot (pageNumber va) s with _ | i
  · have miss := (findSlot_eq_none_iff _ _).1 hf
    simp only [hf, Host.Outcome.next.injEq, translateMiss, ptLookup] at h
    rcases hv : (s.pte (pageNumber va)).valid with _ | _
    · exact .inr (.inl ⟨miss, rfl, by simpa [hv] using h.symm⟩)
    · rcases hvic : victimSlot s with _ | v
      · exact .inr (.inr (.inr ⟨miss, rfl, (victimSlot_eq_none_iff s).1 hvic, by simpa [hv, hvic] using h.symm⟩))
      · exact .inr (.inr (.inl
          ⟨v, miss, rfl, (victimSlot_eq_some_iff s v).1 hvic, by simpa [hv, hvic] using h.symm⟩))
  · exact .inl ⟨i, (findSlot_eq_some_iff _ _ _).1 hf, by simpa [hf] using h.symm⟩

/-- TRANSLATE always answers. -/
theorem exec_translate_next (va : Addr) (s : State) : ∃ t, exec (.translate va) s = .next t := by
  simp only [exec, execTranslate]
  split <;> exact ⟨_, rfl⟩

/-- The two answers of FIND (42_tlb.md R101). -/
theorem exec_find_cases {pn : PageNo} {s t : State} (h : exec (.find pn) s = .next t) :
    (∃ i, Finds s pn i ∧ t = respond .ok true i 0 s) ∨ (Misses s pn ∧ t = respond .ok false 0 0 s) := by
  simp only [exec, execFind] at h
  rcases hf : findSlot pn s with _ | i
  · exact .inr ⟨(findSlot_eq_none_iff _ _).1 hf, by simpa [hf] using h.symm⟩
  · exact .inl ⟨i, (findSlot_eq_some_iff _ _ _).1 hf, by simpa [hf] using h.symm⟩

/-- The two answers of VICTIM (42_tlb.md R108). -/
theorem exec_victim_cases {s t : State} (h : exec .victim s = .next t) :
    (∃ v, IsVictim s v ∧ t = respond .ok false v 0 s) ∨
    (NoVictim s ∧ t = takeFault .internalConsistency s) := by
  simp only [exec, execVictim] at h
  rcases hf : victimSlot s with _ | i
  · exact .inr ⟨(victimSlot_eq_none_iff s).1 hf, by simpa [hf] using h.symm⟩
  · exact .inl ⟨i, (victimSlot_eq_some_iff s i).1 hf, by simpa [hf] using h.symm⟩

/-- A step with nothing presented. -/
theorem step_nil {s : State} (h : s.events = []) : step s = .next s := by
  simp [step, h, idle]

/-- A step that accepts what the host presents. -/
theorem step_cons {s : State} {e : HostEvent} {rest : List HostEvent} (h : s.events = e :: rest) :
    step s = acceptEvent e (takeEvents rest s) := by
  simp [step, h]

/-- Everything a step can do: idle, reset, answer during the halt, refuse an illegal word, or execute a command
(30_encoding.md R72). -/
theorem step_cases {s t : State} (h : step s = .next t) :
    (s.events = [] ∧ t = s) ∨
    (∃ p rest, s.events = .reset p :: rest ∧ t = applyReset p (takeEvents rest s)) ∨
    (∃ w rest, s.events = .command w :: rest ∧ s.fatal = true ∧ t = answerHalted (takeEvents rest s)) ∨
    (∃ w rest e, s.events = .command w :: rest ∧ s.fatal = false ∧ decodeWord w = .error e ∧
      t = takeFault .illegalCommand (takeEvents rest s)) ∨
    (∃ w rest i, s.events = .command w :: rest ∧ s.fatal = false ∧ decodeWord w = .ok i ∧
      exec i (takeEvents rest s) = .next t) := by
  rcases he : s.events with _ | ⟨⟨w⟩ | ⟨p⟩, rest⟩
  · rw [step_nil he] at h
    exact .inl ⟨rfl, by simpa using h.symm⟩
  · rw [step_cons he] at h
    simp only [acceptEvent, acceptCommand, takeEvents_fatal] at h
    rcases hf : s.fatal with _ | _
    · rcases hd : decodeWord w with e | i
      · exact .inr (.inr (.inr (.inl ⟨w, rest, e, rfl, rfl, hd, by simpa [hf, hd] using h.symm⟩)))
      · exact .inr (.inr (.inr (.inr ⟨w, rest, i, rfl, rfl, hd, by simpa [hf, hd] using h⟩)))
    · exact .inr (.inr (.inl ⟨w, rest, rfl, rfl, by simpa [hf] using h.symm⟩))
  · rw [step_cons he] at h
    exact .inr (.inl ⟨p, rest, rfl, by simpa [acceptEvent] using h.symm⟩)

end Sys2Proof.Machine
end

