-- ==== Sys2Proof/Laws/Operands.lean ====
section
/-! SUPPORT. For each function of the address codec and each packed form, one lemma that says its value as a number. -/

namespace Sys2Proof.Machine

/-- `{a, b}` as a number (00_scope.md R8). -/
theorem append_toNat {n m : Nat} (a : BitVec n) (b : BitVec m) : (a ++ b).toNat = a.toNat * 2 ^ m + b.toNat := by
  rw [BitVec.toNat_append, ← Nat.shiftLeft_add_eq_or_of_lt b.isLt, Nat.shiftLeft_eq]

theorem pageNumber_toNat (va : Addr) : (pageNumber va).toNat = va.toNat / 4096 := by
  have := va.isLt
  simp only [pageNumber, BitVec.extractLsb'_toNat, Nat.shiftRight_eq_div_pow]
  omega

theorem pageOffset_toNat (va : Addr) : (pageOffset va).toNat = va.toNat % 4096 := by
  simp [pageOffset]

theorem physicalAddress_toNat (va : Addr) (ppn : PageNo) :
    (physicalAddress va ppn).toNat = ppn.toNat * 4096 + va.toNat % 4096 :=
  (append_toNat ppn (pageOffset va)).trans (by rw [pageOffset_toNat]; norm_num)

theorem packPte_toNat (e : PTE) : (packPte e).toNat = e.valid.toNat * 16 + e.ppn.toNat :=
  (append_toNat (BitVec.ofBool e.valid) e.ppn).trans (by simp)

theorem packSlot_toNat (sl : Slot) :
    (packSlot sl).toNat = sl.valid.toNat * 1024 + sl.rank.toNat * 256 + sl.vpn.toNat * 16 + sl.ppn.toNat := by
  refine (append_toNat (BitVec.ofBool sl.valid ++ sl.rank ++ sl.vpn) sl.ppn).trans ?_
  rw [append_toNat, append_toNat, BitVec.toNat_ofBool]
  omega

theorem packRanks_toNat (r0 r1 r2 r3 : Rank) :
    (packRanks r0 r1 r2 r3).toNat = r0.toNat + r1.toNat * 4 + r2.toNat * 16 + r3.toNat * 64 := by
  refine (append_toNat (r3 ++ r2 ++ r1) r0).trans ?_
  rw [append_toNat, append_toNat]
  omega

end Sys2Proof.Machine
end

