-- ==== Sys2Proof/Laws/PerInstr.lean ====
section
/-! SUPPORT. Facts made per command. `EncodesInRow`: the word of a command has the fixed bits of its own opcode-table
row (30_encoding.md R62, R63, R73). -/

namespace Sys2Proof.Laws

/-- The word of the command is one of its own row's words: under the row's mask it is the row's pattern. -/
def EncodesInRow.Statement (i : Instr) : Prop := i.source.mnemonic.matches (encode i) = true

/-- Operand bits outside the mask do not disturb the pattern. -/
theorem or_and_mask {p m x : Word} (hp : p &&& m = p) (hx : x &&& m = 0) : (p ||| x) &&& m = p := by
  rw [BitVec.and_comm, BitVec.and_or_distrib_left, BitVec.and_comm m p, BitVec.and_comm m x, hp, hx]
  simp

/-- A 16-bit operand at bit 0 lies below the mask 0xFFFF0000. -/
theorem va_and_mask (va : Addr) : va.setWidth 32 &&& 0xFFFF0000#32 = 0 := by
  ext j hj
  interval_cases j <;> simp

/-- A 4-bit operand at bit 0 lies below the mask 0xFFFFFFF0. -/
theorem pn_and_mask (pn : PageNo) : pn.setWidth 32 &&& 0xFFFFFFF0#32 = 0 := by
  ext j hj
  interval_cases j <;> simp

/-- A slot at bits 1:0 and two page numbers at bits 7:4 and 11:8 miss the mask 0xFFFFF00C. -/
theorem install_and_mask (slot : SlotIx) (ppn vpn : PageNo) :
    (vpn.setWidth 32 <<< 8 ||| ppn.setWidth 32 <<< 4 ||| BitVec.ofNat 32 slot.val) &&& 0xFFFFF00C#32 = 0 := by
  ext j hj
  fin_cases slot <;> interval_cases j <;> simp

/-- A page number at bits 19:16 and an address at bits 15:0 miss the mask 0xFFF00000. -/
theorem physaddr_and_mask (va : Addr) (ppn : PageNo) :
    (ppn.setWidth 32 <<< 16 ||| va.setWidth 32) &&& 0xFFF00000#32 = 0 := by
  ext j hj
  interval_cases j <;> simp

theorem EncodesInRow.translate (va : Addr) : EncodesInRow.Statement (.translate va) :=
  beq_iff_eq.2 (or_and_mask (p := 0x10000000#32) (m := 0xFFFF0000#32) (by decide) (va_and_mask va))

theorem EncodesInRow.find (pn : PageNo) : EncodesInRow.Statement (.find pn) :=
  beq_iff_eq.2 (or_and_mask (p := 0x20000000#32) (m := 0xFFFFFFF0#32) (by decide) (pn_and_mask pn))

theorem EncodesInRow.touch (slot : SlotIx) : EncodesInRow.Statement (.touch slot) := by
  fin_cases slot <;> rfl

theorem EncodesInRow.victim : EncodesInRow.Statement .victim := rfl

theorem EncodesInRow.install (slot : SlotIx) (ppn vpn : PageNo) :
    EncodesInRow.Statement (.install slot ppn vpn) := by
  refine beq_iff_eq.2 ?_
  simp only [encode, BitVec.or_assoc]
  exact or_and_mask (p := 0x50000000#32) (m := 0xFFFFF00C#32) (by decide) (by simpa only [BitVec.or_assoc] using install_and_mask slot ppn vpn)

theorem EncodesInRow.ptlookup (pn : PageNo) : EncodesInRow.Statement (.ptlookup pn) :=
  beq_iff_eq.2 (or_and_mask (p := 0x60000000#32) (m := 0xFFFFFFF0#32) (by decide) (pn_and_mask pn))

theorem EncodesInRow.ranks : EncodesInRow.Statement .ranks := rfl

theorem EncodesInRow.pgnum (va : Addr) : EncodesInRow.Statement (.pgnum va) :=
  beq_iff_eq.2 (or_and_mask (p := 0x80000000#32) (m := 0xFFFF0000#32) (by decide) (va_and_mask va))

theorem EncodesInRow.physaddr (va : Addr) (ppn : PageNo) : EncodesInRow.Statement (.physaddr va ppn) := by
  refine beq_iff_eq.2 ?_
  simp only [encode, BitVec.or_assoc]
  exact or_and_mask (p := 0x90000000#32) (m := 0xFFF00000#32) (by decide) (physaddr_and_mask va ppn)

end Sys2Proof.Laws
end

