-- ==== Sys2Proof/Laws/WellFormed.lean ====
section
/-! SUPPORT. Every command is well formed: its operand ranges are in its types (30_encoding.md R68). -/

namespace Sys2Proof.Laws

/-- No operand of a command can be out of range (30_encoding.md R68). -/
theorem wellFormed_every (i : Instr) : i.wellFormed = true := by
  cases i <;>
    simp [Instr.wellFormed, SourceLine.wellFormed, SourceLine.countOk, SourceLine.rangesOk, Instr.source,
      Mnemonic.operandBounds] <;> omega

end Sys2Proof.Laws
end

