-- ==== Sys2Proof/Tests/Slice0.lean ====
section
/-! SUPPORT. Tests on fixed values, their expected results taken from spec/95_test_vectors.md and the rules' own
examples, and for every statement with hypotheses a witness that meets all of them. -/

namespace Sys2Proof.Tests

open Sys2Proof.Machine

/-! ### states -/

/-- A state with these slots and this page table, not halted, nothing presented. -/
def tlb (s0 s1 s2 s3 : Slot) (pt : Vector PTE 16 := Config.identityFill) : State :=
  { slots := #v[s0, s1, s2, s3], pt := pt, fatal := false, response := none, events := [] }

/-- The reset state with these ranks. -/
def ranked (r0 r1 r2 r3 : Rank) : State :=
  tlb ⟨true, r0, 0, 0⟩ ⟨true, r1, 0, 0⟩ ⟨true, r2, 0, 0⟩ ⟨true, r3, 0, 0⟩

/-- The identity page table but for one entry. -/
def fillBut (n : Fin 16) (e : PTE) : Vector PTE 16 := Config.identityFill.set n.val e n.isLt

/-- The start of W6: `pt[9] = {1, 2}`, the slot of rank 3 holds page 5. -/
def w6 : State :=
  tlb ⟨true, 0, 3, 3⟩ ⟨true, 1, 2, 2⟩ ⟨true, 2, 1, 1⟩ ⟨true, 3, 5, 5⟩ (fillBut 9 ⟨true, 2⟩)

/-- RST with `pt[5] = {0, 0xB}`. -/
def invalid5 : State := { State.reset with pt := fillBut 5 ⟨false, 0xB⟩ }

/-- After an ALL_EMPTY reset. -/
def emptied : State := State.resetWith { ResetParams.standard with tlbStyle := .allEmpty }

/-- 2.6: two slots hold page 5. -/
def twoFives : State := tlb ⟨true, 2, 0, 0⟩ ⟨true, 1, 5, 3⟩ ⟨true, 0, 5, 4⟩ ⟨true, 3, 0, 0⟩

/-- 2.5: the rank invariant broken by hand. -/
def broken : State := ranked 0 1 2 2

/-- The response to a word. -/
def answer (w : Word) (s : State) : Option Word :=
  match step (presentCommand w s) with
  | .next t => t.response
  | _ => none

/-- The slots and the `fatal` flag after a word. -/
def after (w : Word) (s : State) : Option (List Slot × Bool) :=
  match step (presentCommand w s) with
  | .next t => some (t.slots.toList, t.fatal)
  | _ => none

/-- The ranks after a word. -/
def ranksAfter (w : Word) (s : State) : Option (List Rank) := (after w s).map fun (sl, _) => sl.map Slot.rank

/-! ### well-formedness: each check refuses an ill-formed line (30_encoding.md R73) -/

theorem test_wellFormed_refuses_missing_operand :
    SourceLine.wellFormed { mnemonic := .install, operands := [1, 3] } = false := by decide

theorem test_wellFormed_refuses_extra_operand :
    SourceLine.wellFormed { mnemonic := .victim, operands := [0] } = false := by decide

theorem test_wellFormed_refuses_va_over_0xFFFF :
    SourceLine.wellFormed { mnemonic := .translate, operands := [0x10000] } = false := by decide

theorem test_wellFormed_refuses_page_number_over_15 :
    SourceLine.wellFormed { mnemonic := .find, operands := [16] } = false ∧
    SourceLine.wellFormed { mnemonic := .install, operands := [3, 16, 0] } = false ∧
    SourceLine.wellFormed { mnemonic := .install, operands := [3, 0, 16] } = false ∧
    SourceLine.wellFormed { mnemonic := .physaddr, operands := [0, 16] } = false := by decide

theorem test_wellFormed_refuses_slot_over_3 :
    SourceLine.wellFormed { mnemonic := .touch, operands := [4] } = false := by decide

theorem test_wellFormed_admits_the_largest_operands :
    SourceLine.wellFormed { mnemonic := .install, operands := [3, 15, 15] } = true ∧
    SourceLine.wellFormed { mnemonic := .physaddr, operands := [0xFFFF, 15] } = true := by decide

/-! ### decoding: words written out bit by bit from 30_encoding.md R62 and R63 -/

theorem test_decode_translate :
    decodeWord 0b00010000000000001001000001000010 = .ok (.translate 0x9042) := by decide

theorem test_decode_find : decodeWord 0b00100000000000000000000000001100 = .ok (.find 0xC) := by decide

theorem test_decode_touch : decodeWord 0b00110000000000000000000000000010 = .ok (.touch 2) := by decide

theorem test_decode_victim : decodeWord 0b01000000000000000000000000000000 = .ok .victim := by decide

theorem test_decode_install :
    decodeWord 0b01010000000000000000110010100011 = .ok (.install 3 0xA 0xC) := by decide

theorem test_decode_ptlookup : decodeWord 0b01100000000000000000000000001001 = .ok (.ptlookup 9) := by decide

theorem test_decode_ranks : decodeWord 0b01110000000000000000000000000000 = .ok .ranks := by decide

theorem test_decode_pgnum : decodeWord 0b10000000000000001001000001000010 = .ok (.pgnum 0x9042) := by decide

theorem test_decode_physaddr :
    decodeWord 0b10010000000000101001000001000010 = .ok (.physaddr 0x9042 2) := by decide

/-- 2.8, the reserved opcodes. -/
theorem test_decode_refuses_reserved_opcodes :
    decodeWord 0x00000000 = .error .reservedOpcode ∧ decodeWord 0xA0000000 = .error .reservedOpcode ∧
    decodeWord 0xF0000000 = .error .reservedOpcode := by decide

/-- 2.8, the reserved bits, and one for each format. -/
theorem test_decode_refuses_reserved_bits :
    decodeWord 0x30000004 = .error (.reservedBits .touch) ∧
    decodeWord 0x10010000 = .error (.reservedBits .translate) ∧
    decodeWord 0x40000001 = .error (.reservedBits .victim) ∧
    decodeWord 0x50000004 = .error (.reservedBits .install) ∧
    decodeWord 0x5000100F = .error (.reservedBits .install) ∧
    decodeWord 0x90100000 = .error (.reservedBits .physaddr) ∧
    decodeWord 0x20000010 = .error (.reservedBits .find) ∧
    decodeWord 0x70000001 = .error (.reservedBits .ranks) := by decide

/-- 20_memory.md R44: byte 0 holds bits 7:0; a word's bytes are read and the rest left. -/
theorem test_decode_bytes_little_endian :
    decodeBytes [0x42, 0x90, 0x02, 0x90, 0xFF] = .ok (.physaddr 0x9042 2, [0xFF]) ∧
    decodeBytes [0x42, 0x90, 0x02] = .error .truncated := by decide

theorem test_decodeTableWord : decodeTableWord 32 0x50000CA3 = some (.install 3 0xA 0xC) := by decide

/-! ### assembler (30_encoding.md R73) -/

theorem test_assemble_text :
    assembleText ['I', 'N', 'S', 'T', 'A', 'L', 'L', ' ', '3', ',', ' ', '0', 'x', 'A', ',', ' ', '1', '2'] =
      .ok 0x50000CA3 ∧
    assembleText ['R', 'A', 'N', 'K', 'S'] = .ok 0x70000000 ∧
    assembleText ['T', 'O', 'U', 'C', 'H', ' ', '4'] = .error (.operandRange .touch) ∧
    assembleText ['F', 'I', 'N', 'D', ' ', '0', 'x'] = .error .badText := by decide

/-! ### commands, one step each -/

/-- W6: the source's end-to-end miss. -/
theorem test_translate_fills_the_victim :
    answer 0x10009042 w6 = some 0x00032042 ∧
    after 0x10009042 w6 =
      some ([⟨true, 1, 3, 3⟩, ⟨true, 2, 2, 2⟩, ⟨true, 3, 1, 1⟩, ⟨true, 0, 9, 2⟩], false) := by decide

/-- 2.6 step 4: the lowest matching slot's ppn, and its rank alone goes to 0. -/
theorem test_translate_hits_the_lowest_slot :
    answer 0x10005ABC twoFives = some 0x00113ABC ∧
    ranksAfter 0x10005ABC twoFives = some [2, 0, 1, 3] := by decide

/-- 2.7 step 3: a page fault answers the VA and changes nothing. -/
theorem test_pageFault :
    answer 0x10005FFF invalid5 = some 0x01005FFF ∧
    after 0x10005FFF invalid5 = some (State.reset.slots.toList, false) := by decide

/-- 2.3 and 2.6 step 3. -/
theorem test_find_lowest : answer 0x20000005 twoFives = some 0x00110000 := by decide

theorem test_find_ignores_empty_slots : answer 0x20000000 emptied = some 0x00000000 := by decide

/-- 2.4. -/
theorem test_touch_ranks :
    ranksAfter 0x30000002 (ranked 2 0 3 1) = some [3, 1, 0, 2] ∧
    ranksAfter 0x30000003 (ranked 1 2 0 3) = some [2, 3, 1, 0] := by decide

/-- W4: TOUCH of the rank-0 slot changes nothing. -/
theorem test_touch_rank_zero :
    answer 0x30000000 State.reset = some 0x00000000 ∧
    ranksAfter 0x30000000 State.reset = some [0, 1, 2, 3] := by decide

/-- W3. -/
theorem test_victim : answer 0x40000000 (ranked 1 2 0 3) = some 0x00030000 := by decide

/-- 2.5: no slot of rank 3. -/
theorem test_victim_missing :
    answer 0x40000000 broken = some 0x02000000 ∧
    after 0x40000000 broken = some (broken.slots.toList, true) := by decide

/-- P3 step 4. -/
theorem test_install :
    answer 0x50000CA3 (ranked 1 2 0 3) = some 0x00030000 ∧
    after 0x50000CA3 (ranked 1 2 0 3) =
      some ([⟨true, 2, 0, 0⟩, ⟨true, 3, 0, 0⟩, ⟨true, 1, 0, 0⟩, ⟨true, 0, 0xC, 0xA⟩], false) := by decide

/-- 2.2. -/
theorem test_ptlookup :
    answer 0x60000009 State.reset = some 0x00000019 ∧ answer 0x60000005 invalid5 = some 0x0000000B := by decide

/-- 42_tlb.md R116, its example. -/
theorem test_ranks : answer 0x70000000 (ranked 1 2 0 3) = some 0x000000C9 := by decide

/-- 2.1. -/
theorem test_pgnum : answer 0x80000FFF State.reset = some 0x0 ∧ answer 0x8000FFFF State.reset = some 0xF := by decide

/-- 2.1: substitution, not addition. -/
theorem test_physaddr :
    answer 0x9000F000 State.reset = some 0x0 ∧ answer 0x900F0000 State.reset = some 0x0000F000 := by decide

/-- 2.8: an illegal word changes nothing. -/
theorem test_illegal_word :
    answer 0x5000100F State.reset = some 0x03000000 ∧
    after 0x5000100F State.reset = some (State.reset.slots.toList, false) := by decide

/-- 2.5: every word during the halt, legal or not. -/
theorem test_halted :
    answer 0x10000123 { State.reset with fatal := true } = some 0x02000000 ∧
    answer 0x00000000 { State.reset with fatal := true } = some 0x02000000 := by decide

/-- The host's own way in: the very next step runs the word. -/
theorem test_withFetchWord_runs :
    (match step (State.reset.withFetchWord 32 0x80009042) with
      | .next t => t.response
      | _ => none) = some 0x00000009 := by decide

/-- 10_state.md R24: slot 3 of W6's end state. -/
theorem test_packSlot : packSlot ⟨true, 0, 9, 2⟩ = 0b10010010010 := by decide

/-! ### witnesses: a concrete state and operands for the hypotheses of each statement -/

theorem witness_EveryStepKeepsRanksPermuted :
    ∃ t, RanksPermuted (presentCommand 0x30000002 State.reset) ∧
      step (presentCommand 0x30000002 State.reset) = .next t :=
  ⟨_, by unfold RanksPermuted; decide, rfl⟩

theorem witness_TranslateNeverDuplicatesAPage :
    ∃ t, exec (.translate 0) State.reset = .next t ∧ (0 : SlotIx) ≠ 1 ∧ Holds t 0 0 ∧ Holds t 1 0 :=
  ⟨_, rfl, by decide, by unfold Holds; decide, by unfold Holds; decide⟩

/-- A reset presented to the reset state, with another page table and the other style. -/
def resetNext : State :=
  { State.reset with events := [.reset { ptFill := fillBut 9 ⟨true, 2⟩, tlbStyle := .allEmpty }] }

theorem witness_OnlyResetWritesThePageTable : ∃ t, step resetNext = .next t ∧ t.pt ≠ resetNext.pt :=
  ⟨_, rfl, by decide⟩

theorem witness_OnlyResetEmptiesASlot :
    ∃ t, step resetNext = .next t ∧ (resetNext.slot 3).valid = true ∧ (t.slot 3).valid = false :=
  ⟨_, rfl, by decide, by decide⟩

theorem witness_EveryCommandIsIdempotentInState :
    ∃ t, exec (.install 3 0xA 0xC) State.reset = .next t ∧ ∀ va, Instr.install 3 0xA 0xC ≠ .translate va :=
  ⟨_, rfl, fun _ => nofun⟩

theorem witness_StepsButInstallKeepCoherence :
    ∃ t, Coherent (presentCommand 0x10009042 w6) ∧
      (∀ w rest slot ppn vpn, (presentCommand 0x10009042 w6).events = .command w :: rest →
        decodeWord w ≠ .ok (.install slot ppn vpn)) ∧
      step (presentCommand 0x10009042 w6) = .next t := by
  refine ⟨_, by unfold Coherent; decide, ?_, rfl⟩
  intro w rest slot ppn vpn h
  obtain ⟨rfl, -⟩ : 0x10009042#32 = w ∧ [] = rest := by simpa [w6, tlb] using h
  rw [show decodeWord 0x10009042#32 = .ok (.translate 0x9042) by decide]
  nofun

/-- One state for the page disjunct, one for the page-0 disjunct at its boundary. -/
theorem witness_CoherentTranslateEqualsTheWalk :
    (Coherent w6 ∧ RanksPermuted w6 ∧ (0x9042 : Addr).extractLsb' 12 4 ≠ 0) ∧
    (Coherent State.reset ∧ RanksPermuted State.reset ∧ State.reset.pte 0 = { valid := true, ppn := 0 }) := by
  unfold Coherent RanksPermuted
  decide

theorem witness_DecodingIsInjective : decodeWord 0x50000CA3 = .ok (.install 3 0xA 0xC) := by decide

theorem witness_WordsDecodeByMaskAndMatch :
    (∀ i, decodeWord 0x50000004 ≠ .ok i) ∧
    (presentCommand 0x50000004 State.reset).events = [.command 0x50000004] ∧
    (presentCommand 0x50000004 State.reset).fatal = false := by
  refine ⟨fun i => ?_, rfl, rfl⟩
  rw [show decodeWord 0x50000004 = .error (.reservedBits .install) by decide]
  nofun

/-- The presented word for the clauses below; the first of them. -/
theorem witness_IllegalWordsAnswerAndChangeNothing :
    (presentCommand 0x0FFFFFFF State.reset).events = [.command 0x0FFFFFFF] ∧
    (presentCommand 0x0FFFFFFF State.reset).fatal = false ∧ ReservedOpcode 0x0FFFFFFF ∧ ReservedOpcode 0xA0000000 :=
  ⟨rfl, rfl, by unfold ReservedOpcode; decide, by unfold ReservedOpcode; decide⟩

/-- Formats V, P and S at the lowest or highest bit of each range. -/
theorem witness_IllegalWordsAnswerAndChangeNothing_bits :
    ReservedBitSet 0x10010000 ∧ ReservedBitSet 0x88000000 ∧ ReservedBitSet 0x20000010 ∧ ReservedBitSet 0x68000000 ∧
    ReservedBitSet 0x30000004 := by
  refine ⟨?_, ?_, ?_, ?_, ?_⟩ <;> (unfold ReservedBitSet; decide)

/-- Formats N, I and A at the lowest or highest bit of each range. -/
theorem witness_IllegalWordsAnswerAndChangeNothing_more_bits :
    ReservedBitSet 0x40000001 ∧ ReservedBitSet 0x78000000 ∧ ReservedBitSet 0x50001000 ∧ ReservedBitSet 0x50000008 ∧
    ReservedBitSet 0x90100000 := by
  refine ⟨?_, ?_, ?_, ?_, ?_⟩ <;> (unfold ReservedBitSet; decide)

theorem witness_StepRunsTheDecodedCommand :
    (presentCommand 0x30000002 State.reset).events = [.command 0x30000002] ∧
    (presentCommand 0x30000002 State.reset).fatal = false ∧ decodeWord 0x30000002 = .ok (.touch 2) :=
  ⟨rfl, rfl, by decide⟩

theorem witness_EveryWordGetsOneResponse :
    (presentCommand 0 State.reset).events = .command 0 :: [] := rfl

theorem witness_CommandsWriteOnlyTheirRow :
    ∃ t u, exec (.translate 0x9042) w6 = .next t ∧ (w6.slot 0).rank ≠ 3 ∧ exec .victim broken = .next u ∧
      u.fatal ≠ broken.fatal :=
  ⟨_, _, rfl, by decide, rfl, by decide⟩

theorem witness_CommandsWriteOnlyTheirRow_hit_and_fatal :
    ∃ t u, exec (.translate 0x0042) broken = .next t ∧ Finds broken ((0x0042 : Addr).extractLsb' 12 4) 0 ∧
      exec (.translate 0x5000) broken = .next u ∧ u.fatal ≠ broken.fatal :=
  ⟨_, _, rfl, by unfold Finds Holds; decide, rfl, by decide⟩

theorem witness_CommandsWriteOnlyTheirRow_misses :
    ∃ t u, exec (.translate 0x5FFF) invalid5 = .next t ∧ Misses invalid5 ((0x5FFF : Addr).extractLsb' 12 4) ∧
      (invalid5.pte ((0x5FFF : Addr).extractLsb' 12 4)).valid = false ∧
      exec (.translate 0x5000) broken = .next u ∧ Misses broken ((0x5000 : Addr).extractLsb' 12 4) ∧
      (broken.pte ((0x5000 : Addr).extractLsb' 12 4)).valid = true ∧ NoVictim broken ∧ ¬ NoVictim w6 :=
  ⟨_, _, rfl, by unfold Misses Holds; decide, by decide, rfl, by unfold Misses Holds; decide, by decide,
    by unfold NoVictim; decide, by unfold NoVictim; decide⟩

/-- W6 with entry 0 of the page table changed: it agrees with W6 on all a TRANSLATE of page 9 may read. -/
def w6Other : State := { w6 with pt := (fillBut 9 ⟨true, 2⟩).set 0 ⟨false, 7⟩, fatal := true }

theorem witness_CommandsReadOnlyTheirRow :
    ∃ t t', exec (.translate 0x9042) w6 = .next t ∧ exec (.translate 0x9042) w6Other = .next t' ∧
      w6Other.slots = w6.slots ∧ w6Other ≠ w6 ∧
      w6Other.pte ((0x9042 : Addr).extractLsb' 12 4) = w6.pte ((0x9042 : Addr).extractLsb' 12 4) :=
  ⟨_, _, rfl, rfl, rfl, by decide, by decide⟩

/-- Two states that agree on ranks alone, for TOUCH, VICTIM, INSTALL and RANKS. -/
theorem witness_CommandsReadOnlyTheirRow_ranks :
    ∃ a a' b b' c c' d d', exec (.touch 1) w6 = .next a ∧ exec (.touch 1) (ranked 0 1 2 3) = .next a' ∧
      exec .victim w6 = .next b ∧ exec .victim (ranked 0 1 2 3) = .next b' ∧
      exec (.install 1 2 3) w6 = .next c ∧ exec (.install 1 2 3) (ranked 0 1 2 3) = .next c' ∧
      exec .ranks w6 = .next d ∧ exec .ranks (ranked 0 1 2 3) = .next d' ∧
      ∀ i, ((ranked 0 1 2 3).slot i).rank = (w6.slot i).rank :=
  ⟨_, _, _, _, _, _, _, _, rfl, rfl, rfl, rfl, rfl, rfl, rfl, rfl, by decide⟩

/-- Two states that agree on valid bits and page numbers alone, for FIND; on one entry alone, for PTLOOKUP. -/
theorem witness_CommandsReadOnlyTheirRow_find_ptlookup :
    ∃ a a' b b', exec (.find 0) State.reset = .next a ∧ exec (.find 0) broken = .next a' ∧
      (∀ i, (broken.slot i).valid = (State.reset.slot i).valid ∧ (broken.slot i).vpn = (State.reset.slot i).vpn) ∧
      exec (.ptlookup 3) w6 = .next b ∧ exec (.ptlookup 3) invalid5 = .next b' ∧ invalid5.pte 3 = w6.pte 3 :=
  ⟨_, _, _, _, rfl, rfl, by decide, rfl, rfl, by decide⟩

/-- Two states that agree on `fatal` too, on the path that sets it. -/
theorem witness_CommandsReadOnlyTheirRow_fatal :
    ∃ t t' u u', exec (.translate 0x5000) broken = .next t ∧
      exec (.translate 0x5000) { broken with pt := fillBut 9 ⟨true, 2⟩ } = .next t' ∧
      (fillBut 9 ⟨true, 2⟩)[5] = broken.pt[5] ∧ t.fatal ≠ broken.fatal ∧
      exec .victim broken = .next u ∧ exec .victim { broken with pt := fillBut 9 ⟨true, 2⟩ } = .next u' ∧
      u.fatal ≠ broken.fatal :=
  ⟨_, _, _, _, rfl, rfl, by decide, by decide, rfl, rfl, by decide⟩

theorem witness_TouchKeepsPermutationAndOrder :
    ∃ t, RanksPermuted (ranked 2 0 3 1) ∧ exec (.touch 2) (ranked 2 0 3 1) = .next t ∧
      (0 : SlotIx) ≠ 2 ∧ (3 : SlotIx) ≠ 2 ∧ ((ranked 2 0 3 1).slot 2).rank = 3 :=
  ⟨_, by unfold RanksPermuted; decide, rfl, by decide, by decide, rfl⟩

theorem witness_TouchIsIdempotent :
    ∃ t u, exec (.touch 2) State.reset = .next t ∧ exec (.touch 2) t = .next u :=
  ⟨_, _, rfl, rfl⟩

theorem witness_VictimAnswersTheRankThreeSlot : IsVictim (ranked 1 3 0 3) 1 ∧ NoVictim broken := by
  unfold IsVictim NoVictim
  decide

theorem witness_FindAnswersTheLowestMatch : Finds twoFives 5 1 ∧ Misses twoFives 6 := by
  unfold Finds Misses Holds
  decide

/-- Two Occupied slots ranked below two Empty ones; TOUCH names an Occupied one. -/
def halfFull : State := tlb ⟨false, 2, 0, 0⟩ ⟨false, 3, 0, 0⟩ ⟨true, 1, 4, 4⟩ ⟨true, 0, 0, 0⟩

theorem witness_OccupiedSlotsStayBelowEmptyOnes :
    ∃ t, OccupiedBelowEmpty (presentCommand 0x30000002 halfFull) ∧ RanksPermuted (presentCommand 0x30000002 halfFull) ∧
      (∀ w rest i, (presentCommand 0x30000002 halfFull).events = .command w :: rest →
        decodeWord w = .ok (.touch i) → ((presentCommand 0x30000002 halfFull).slot i).valid = true) ∧
      step (presentCommand 0x30000002 halfFull) = .next t := by
  refine ⟨_, by unfold OccupiedBelowEmpty; decide, by unfold RanksPermuted; decide, ?_, rfl⟩
  intro w rest i h hd
  obtain ⟨rfl, -⟩ : 0x30000002#32 = w ∧ [] = rest := by simpa [halfFull, tlb] using h
  obtain rfl : (2 : SlotIx) = i := by
    rw [show decodeWord 0x30000002#32 = .ok (.touch 2) by decide] at hd
    simpa using hd
  decide

theorem witness_OccupiedSlotsStayBelowEmptyOnes_reset :
    ({ ResetParams.standard with tlbStyle := .allEmpty } : ResetParams).tlbStyle = .allEmpty := rfl

theorem witness_MissFillsAnEmptySlotFirst :
    ∃ t, OccupiedBelowEmpty halfFull ∧ RanksPermuted halfFull ∧ (halfFull.slot 0).valid = false ∧
      exec (.translate 0x8000) halfFull = .next t ∧ Misses halfFull ((0x8000 : Addr).extractLsb' 12 4) ∧
      (halfFull.pte ((0x8000 : Addr).extractLsb' 12 4)).valid = true :=
  ⟨_, by unfold OccupiedBelowEmpty; decide, by unfold RanksPermuted; decide, by decide, rfl,
    by unfold Misses Holds; decide, by decide⟩

theorem witness_InstallOverwritesAndTouches :
    ((0 : SlotIx) ≠ 1 ∧ (w6.slot 0).rank < (w6.slot 1).rank) ∧
    ((2 : SlotIx) ≠ 1 ∧ ¬ (w6.slot 2).rank < (w6.slot 1).rank) := by
  decide

theorem witness_RanksAreTheRecencyOrder :
    ∃ t u, RankedInOrder [0, 1, 2, 3] w6 ∧
      exec (.translate 0x3000) w6 = .next t ∧ Finds w6 ((0x3000 : Addr).extractLsb' 12 4) 0 ∧
      exec (.translate 0x9042) w6 = .next u ∧ Misses w6 ((0x9042 : Addr).extractLsb' 12 4) ∧
      (w6.pte ((0x9042 : Addr).extractLsb' 12 4)).valid = true :=
  ⟨_, _, by unfold RankedInOrder; decide, rfl, by unfold Finds Holds; decide, rfl,
    by unfold Misses Holds; decide, by decide⟩

theorem witness_RanksAreTheRecencyOrder_page_fault :
    ∃ t, RankedInOrder [0, 1, 2, 3] invalid5 ∧ exec (.translate 0x5FFF) invalid5 = .next t ∧
      Misses invalid5 ((0x5FFF : Addr).extractLsb' 12 4) ∧
      (invalid5.pte ((0x5FFF : Addr).extractLsb' 12 4)).valid = false :=
  ⟨_, by unfold RankedInOrder; decide, rfl, by unfold Misses Holds; decide, by decide⟩

theorem witness_RanksAreTheRecencyOrder_others :
    ∃ a b c d, RankedInOrder [0, 1, 2, 3] w6 ∧ exec (.touch 1) w6 = .next a ∧ exec (.install 1 2 3) w6 = .next b ∧
      exec .victim w6 = .next c ∧ exec .ranks w6 = .next d ∧ (∀ va, Instr.ranks ≠ .translate va) ∧
      (∀ k, Instr.ranks ≠ .touch k) ∧ ∀ k ppn vpn, Instr.ranks ≠ .install k ppn vpn :=
  ⟨_, _, _, _, by unfold RankedInOrder; decide, rfl, rfl, rfl, rfl, fun _ => nofun, fun _ => nofun, fun _ _ _ => nofun⟩

theorem witness_TranslateHitUsesTheSlot : Finds twoFives ((0x5ABC : Addr).extractLsb' 12 4) 1 := by
  unfold Finds Holds
  decide

theorem witness_TranslateFaultsOnAnInvalidEntry :
    Misses invalid5 ((0x5FFF : Addr).extractLsb' 12 4) ∧
    (invalid5.pte ((0x5FFF : Addr).extractLsb' 12 4)).valid = false := by
  unfold Misses Holds
  decide

theorem witness_TranslateFillsTheVictim :
    Misses w6 ((0x9042 : Addr).extractLsb' 12 4) ∧ (w6.pte ((0x9042 : Addr).extractLsb' 12 4)).valid = true ∧
    IsVictim w6 3 := by
  unfold Misses Holds IsVictim
  decide

theorem witness_RepeatedTranslateHits :
    ∃ t, exec (.translate 0x9042) w6 = .next t ∧ Answers t 0 false 3 0x2042 :=
  ⟨_, rfl, _, rfl, by decide⟩

theorem witness_FirstTranslateAfterReset :
    ResetParams.standard.tlbStyle = .allValidZero ∧ (0x0ABC : Addr).extractLsb' 12 4 = 0 ∧
    ({ ResetParams.standard with tlbStyle := .allEmpty } : ResetParams).tlbStyle = .allEmpty := by decide

theorem witness_OffsetNeverChoosesThePath :
    ∃ t t', (0x9FFF : Addr).extractLsb' 12 4 = (0x9042 : Addr).extractLsb' 12 4 ∧
      exec (.translate 0x9042) w6 = .next t ∧ exec (.translate 0x9FFF) w6 = .next t' ∧
      Answers t 0 false 3 0x2042 ∧ Answers t' 0 false 3 0x2FFF :=
  ⟨_, _, by decide, rfl, rfl, ⟨_, rfl, by decide⟩, _, rfl, by decide⟩

theorem witness_FillLeavesOneSlotHoldingThePage :
    ∃ t, exec (.translate 0x9042) w6 = .next t ∧ Answers t 0 false 3 0x2042 ∧
      Holds t 3 ((0x9042 : Addr).extractLsb' 12 4) :=
  ⟨_, rfl, ⟨_, rfl, by decide⟩, by unfold Holds; decide⟩

theorem witness_InternalFaultSetsFatalOnly :
    NoVictim broken ∧ Misses broken ((0x5000 : Addr).extractLsb' 12 4) ∧
    (broken.pte ((0x5000 : Addr).extractLsb' 12 4)).valid = true := by
  unfold NoVictim Misses Holds
  decide

theorem witness_FatalIsSetOnlyByAMissingVictim :
    ∃ t, (presentCommand 0x40000000 broken).fatal = false ∧ step (presentCommand 0x40000000 broken) = .next t ∧
      t.fatal = true :=
  ⟨_, rfl, rfl, by decide⟩

/-- A halted block with a word presented. -/
def halted : State := presentCommand 0x10000123 { broken with fatal := true }

theorem witness_HaltedBlockExecutesNothing :
    ∃ t, halted.events = [.command 0x10000123] ∧ halted.fatal = true ∧
      step { halted with events := [.reset ResetParams.standard] } = .next t ∧ t.fatal = false :=
  ⟨_, rfl, rfl, rfl, rfl⟩

theorem witness_FaultsArePrecise :
    ∃ t u, (presentCommand 0x10005FFF invalid5).events = [.command 0x10005FFF] ∧
      step (presentCommand 0x10005FFF invalid5) = .next t ∧ StatusIs t 1 ∧
      step (presentCommand 0x40000000 broken) = .next u ∧ StatusIs u 2 :=
  ⟨_, _, rfl, rfl, ⟨_, rfl, by decide⟩, rfl, _, rfl, by decide⟩

theorem witness_IdleBlockHoldsItsState : State.reset.events = [] := rfl

theorem witness_ResetLoadsItsParameters :
    resetNext.events = [.reset { ptFill := fillBut 9 ⟨true, 2⟩, tlbStyle := .allEmpty }] := rfl

theorem witness_EveryStepKeepsTheBlockSafe :
    ∃ t, Safe (presentCommand 0x10009042 w6) ∧ step (presentCommand 0x10009042 w6) = .next t ∧
      (presentCommand 0x10009042 w6).events = .command 0x10009042 :: [] :=
  ⟨_, by unfold Safe RanksPermuted; decide, rfl, rfl⟩

theorem witness_OnlyMissingTranslatesPageFault :
    ∃ t, exec (.translate 0x5FFF) invalid5 = .next t ∧ StatusIs t 1 :=
  ⟨_, rfl, _, rfl, by decide⟩

theorem witness_PhysaddrAnswersTheSubstitution :
    (0xF123 : Addr).extractLsb' 0 12 = (0x0123 : Addr).extractLsb' 0 12 := by decide

end Sys2Proof.Tests
end

/-! PROOFS. No command writes the page table, so a step that changes it is a reset (10_state.md R29). -/

namespace Sys2Proof.Machine

/-- The page-table and event columns of 30_encoding.md R64: no command writes either. -/
theorem exec_keeps_pt_and_events {i : Instr} {s t : State} (h : exec i s = .next t) :
    t.pt = s.pt ∧ t.events = s.events := by
  cases i with
  | translate va =>
    rcases exec_translate_cases h with ⟨i, -, rfl⟩ | ⟨-, -, rfl⟩ | ⟨v, -, -, -, rfl⟩ | ⟨-, -, -, rfl⟩
    · simp [translateHit]
    · simp
    · simp [translateFill]
    · simp
  | find pn => rcases exec_find_cases h with ⟨i, -, rfl⟩ | ⟨-, rfl⟩ <;> simp
  | victim => rcases exec_victim_cases h with ⟨v, -, rfl⟩ | ⟨-, rfl⟩ <;> simp
  | touch slot | install slot ppn vpn | ptlookup pn | ranks | pgnum va | physaddr va ppn =>
    obtain rfl := Host.Outcome.next.inj h
    simp

/-- A step either keeps the page table or is a reset, which loads it from its own `PT_FILL` (10_state.md R29). -/
theorem step_pt_cases {s t : State} (h : step s = .next t) :
    t.pt = s.pt ∨ ∃ p rest, s.events = .reset p :: rest ∧ t.pt = p.ptFill := by
  rcases step_cases h with ⟨-, rfl⟩ | ⟨p, rest, hev, rfl⟩ | ⟨w, rest, -, -, rfl⟩ | ⟨w, rest, e, -, -, -, rfl⟩ |
    ⟨w, rest, i, -, -, -, hexec⟩
  · exact .inl rfl
  · exact .inr ⟨p, rest, hev, applyReset_pt _ p⟩
  · exact .inl (by simp [answerHalted])
  · exact .inl (by simp)
  · obtain ⟨hpt, -⟩ := exec_keeps_pt_and_events hexec
    exact .inl (hpt.trans (takeEvents_pt s rest))

/-- Settles O5: the step keeps the page table on every path but the reset's. -/
theorem onlyResetWritesThePageTable : Obligations.OnlyResetWritesThePageTable := by
  intro s t hstep hne
  exact (step_pt_cases hstep).resolve_left hne

end Sys2Proof.Machine

/-! PROOFS. The packed forms of a slot and of a page-table entry (10_state.md R24, R28). -/

namespace Sys2Proof.Machine

/-- Each field of a packed slot stands at its own bits (10_state.md R24), by its weight in the packed number. -/
theorem packSlot_fields (sl : Slot) :
    (packSlot sl).getLsbD 10 = sl.valid ∧ (packSlot sl).extractLsb' 8 2 = sl.rank ∧
    (packSlot sl).extractLsb' 4 4 = sl.vpn ∧ (packSlot sl).extractLsb' 0 4 = sl.ppn := by
  refine ⟨?valid, BitVec.eq_of_toNat_eq ?rank, BitVec.eq_of_toNat_eq ?vpn, BitVec.eq_of_toNat_eq ?ppn⟩
  case valid =>
    rw [BitVec.getLsbD, packSlot_toNat, Nat.testBit_eq_decide_div_mod_eq]
    cases sl.valid <;> simp <;> omega
  all_goals
    rw [BitVec.extractLsb'_toNat, packSlot_toNat, Nat.shiftRight_eq_div_pow]
    omega

/-- Packing loses no field of a slot (10_state.md R24). -/
theorem unpackSlot_packSlot (sl : Slot) : unpackSlot (packSlot sl) = sl := by
  obtain ⟨hvalid, hrank, hvpn, hppn⟩ := packSlot_fields sl
  simp only [unpackSlot, hvalid, hrank, hvpn, hppn]

/-- Settles O1: the weights of the fields, and the round trip field by field. -/
theorem packedFormsFollowTheirLayout : Obligations.PackedFormsFollowTheirLayout :=
  ⟨fun sl => ⟨packSlot_toNat sl, unpackSlot_packSlot sl⟩, packPte_toNat⟩

end Sys2Proof.Machine

/-! PROOFS. The rows of the opcode table fix the bits their masks name (30_encoding.md R62, R63, R71). -/

namespace Sys2Proof

/-- A word of a row has the row's bits wherever the row's mask is all ones (30_encoding.md R71). -/
theorem Mnemonic.field_of_matches {m : Mnemonic} {w : Word} (h : m.matches w = true) {lo len : Nat}
    (hmask : m.mask.extractLsb' lo len = BitVec.allOnes len) :
    w.extractLsb' lo len = m.pattern.extractLsb' lo len := by
  have hrow : w &&& m.mask = m.pattern := beq_iff_eq.1 h
  rw [← hrow, BitVec.extractLsb'_and, hmask, BitVec.and_allOnes]

/-- A word of a row has the row's opcode: every mask covers bits 31:28 (30_encoding.md R61, R63). -/
theorem Mnemonic.opcodeField_of_matches {m : Mnemonic} {w : Word} (h : m.matches w = true) :
    opcodeField w = opcodeField m.pattern :=
  field_of_matches h (by cases m <;> rfl)

/-- A word that decodes is a word of some row, and its fields are the operands (30_encoding.md R71, R72). -/
theorem decodeWord_ok_cases {w : Word} {i : Instr} (h : decodeWord w = .ok i) :
    ∃ m : Mnemonic, m.matches w = true ∧ i = m.read w := by
  simp only [decodeWord] at h
  split at h
  · next m hfind => exact ⟨m, List.find?_some (p := (Mnemonic.matches · w)) hfind, (Except.ok.inj h).symm⟩
  · cases h

end Sys2Proof

/-! PROOFS. Words with a reserved opcode or a reserved bit set are in no row, so they do not decode, and a word that
does not decode is refused (30_encoding.md R69, R70; 60_exceptions.md R152). -/

namespace Sys2Proof.Machine

/-- The opcode of a word of a row is assigned (30_encoding.md R63, R70). -/
theorem not_reservedOpcode_of_matches {m : Mnemonic} {w : Word} (h : m.matches w = true) : ¬ ReservedOpcode w := by
  have hop : opcodeOf w = opcodeOf m.pattern := congrArg BitVec.toNat (Mnemonic.opcodeField_of_matches h)
  rw [ReservedOpcode, hop]
  cases m <;> decide

/-- The reserved bits of a word of a row are zero, format by format (30_encoding.md R62, R69). -/
theorem not_reservedBitSet_of_matches {m : Mnemonic} {w : Word} (h : m.matches w = true) : ¬ ReservedBitSet w := by
  have hop : opcodeOf w = opcodeOf m.pattern := congrArg BitVec.toNat (Mnemonic.opcodeField_of_matches h)
  cases m with
  | translate | pgnum =>
    have formatV := Mnemonic.field_of_matches h (lo := 16) (len := 12) rfl
    simp [ReservedBitSet, hop, formatV, Mnemonic.pattern]
  | find | ptlookup =>
    have formatP := Mnemonic.field_of_matches h (lo := 4) (len := 24) rfl
    simp [ReservedBitSet, hop, formatP, Mnemonic.pattern]
  | touch =>
    have formatS := Mnemonic.field_of_matches h (lo := 2) (len := 26) rfl
    simp [ReservedBitSet, hop, formatS, Mnemonic.pattern]
  | victim | ranks =>
    have formatN := Mnemonic.field_of_matches h (lo := 0) (len := 28) rfl
    simp [ReservedBitSet, hop, formatN, Mnemonic.pattern]
  | install =>
    have formatI_high := Mnemonic.field_of_matches h (lo := 12) (len := 16) rfl
    have formatI_low := Mnemonic.field_of_matches h (lo := 2) (len := 2) rfl
    simp [ReservedBitSet, hop, formatI_high, formatI_low, Mnemonic.pattern]
  | physaddr =>
    have formatA := Mnemonic.field_of_matches h (lo := 20) (len := 8) rfl
    simp [ReservedBitSet, hop, formatA, Mnemonic.pattern]

/-- A word with a reserved opcode or a reserved bit set is no command (30_encoding.md R69, R70). -/
theorem decodeWord_ne_ok_of_reserved {w : Word} (hres : ReservedOpcode w ∨ ReservedBitSet w) (i : Instr) :
    decodeWord w ≠ .ok i := by
  intro hok
  obtain ⟨m, hm, -⟩ := decodeWord_ok_cases hok
  exact hres.elim (not_reservedOpcode_of_matches hm) (not_reservedBitSet_of_matches hm)

/-- A word that is no command, presented to a block that is not halted, is answered ILLEGAL_COMMAND and writes no state
(60_exceptions.md R152). -/
theorem step_refuses_undecodable {s : State} {w : Word} {rest : List HostEvent} (hev : s.events = .command w :: rest)
    (hrun : s.fatal = false) (hbad : ∀ i, decodeWord w ≠ .ok i) :
    ∃ t, step s = .next t ∧ Answers t 3 false 0 0 ∧ SameStorage s t ∧ t.events = rest := by
  refine ⟨takeFault .illegalCommand (takeEvents rest s), ?_, answers_illegalCommand _, ?_, by simp⟩
  · rw [step_cons hev]
    cases hdec : decodeWord w with
    | error e => simp [acceptEvent, acceptCommand, hrun, hdec]
    | ok i => exact absurd hdec (hbad i)
  · simp [SameStorage]

/-- Settles O14: a reserved word is in no row of the opcode table, and the step refuses what does not decode. -/
theorem illegalWordsAnswerAndChangeNothing : Obligations.IllegalWordsAnswerAndChangeNothing := by
  intro s w rest hev hrun hres
  exact step_refuses_undecodable hev hrun (decodeWord_ne_ok_of_reserved hres)

end Sys2Proof.Machine

/-! PROOFS. The address codec: the two fields of a physical address, and the commands PGNUM and PHYSADDR, which write
the response port and nothing else (40_address_codec.md R80 to R83). -/

namespace Sys2Proof.Machine

/-- `respond` writes the response port only (30_encoding.md R65). -/
theorem sameButResponse_respond (st : Status) (hit : Bool) (k : SlotIx) (d : BitVec 16) (s : State) :
    SameButResponse s (respond st hit k d s) :=
  ⟨⟨respond_slots st hit k d s, respond_pt st hit k d s, respond_fatal st hit k d s⟩, respond_events st hit k d s⟩

/-- PGNUM has one outcome: the page number, zero-extended (40_address_codec.md R82). -/
theorem exec_pgnum_eq (va : Addr) (s : State) :
    exec (.pgnum va) s = .next (respond .ok false 0 ((pageNumber va).setWidth 16) s) := rfl

/-- PHYSADDR has one outcome: the physical address, whatever the page table and the TLB hold
(40_address_codec.md R83). -/
theorem exec_physaddr_eq (va : Addr) (ppn : PageNo) (s : State) :
    exec (.physaddr va ppn) s = .next (respond .ok false 0 (physicalAddress va ppn) s) := rfl

/-- A command whose one outcome is a response answers what the response says and changes nothing else. -/
theorem answers_and_keeps_of_exec_eq_respond {i : Instr} {st : Status} {hit : Bool} {k : SlotIx} {d : BitVec 16}
    {s : State} (h : exec i s = .next (respond st hit k d s)) :
    ∃ t, exec i s = .next t ∧ Answers t (statusCode st) hit k d ∧ SameButResponse s t :=
  ⟨_, h, answers_respond st hit k d s, sameButResponse_respond st hit k d s⟩

/-- Bits 15:12 of a physical address are the physical page number (40_address_codec.md R81). -/
theorem physicalAddress_pageField (va : Addr) (ppn : PageNo) : (physicalAddress va ppn).extractLsb' 12 4 = ppn :=
  BitVec.extractLsb'_append_eq_left (a := ppn) (b := pageOffset va)

/-- Bits 11:0 of a physical address are the offset of the virtual one (40_address_codec.md R81). -/
theorem physicalAddress_offsetField (va : Addr) (ppn : PageNo) :
    (physicalAddress va ppn).extractLsb' 0 12 = pageOffset va :=
  BitVec.extractLsb'_append_eq_right (a := ppn) (b := pageOffset va)

/-- The virtual page number has no influence on a physical address: only the offset has (40_address_codec.md R81). -/
theorem physicalAddress_congr_offset {va va' : Addr} (h : pageOffset va' = pageOffset va) (ppn : PageNo) :
    physicalAddress va' ppn = physicalAddress va ppn := by
  rw [physicalAddress, physicalAddress, h]

/-- Settles O21: the page number and the offset are the stated fields, and PGNUM only responds. -/
theorem pgnumAnswersThePageNumber : Obligations.PgnumAnswersThePageNumber := by
  intro va s
  exact ⟨rfl, rfl, answers_and_keeps_of_exec_eq_respond (exec_pgnum_eq va s)⟩

/-- Settles O22: a physical address field by field, and PHYSADDR only responds. -/
theorem physaddrAnswersTheSubstitution : Obligations.PhysaddrAnswersTheSubstitution := by
  intro va ppn s
  refine ⟨⟨physicalAddress_pageField va ppn, physicalAddress_offsetField va ppn, ?noInfluence⟩,
    answers_and_keeps_of_exec_eq_respond (exec_physaddr_eq va ppn s)⟩
  intro va' hoffset
  exact physicalAddress_congr_offset hoffset ppn

end Sys2Proof.Machine

/-! PROOFS. The page table: PTLOOKUP answers the entry as it stands, valid or not, and writes the response port and
nothing else (41_page_table.md R90, R91). -/

namespace Sys2Proof.Machine

/-- A packed entry as response data: zero-extension keeps its number (10_state.md R28; 41_page_table.md R91). -/
theorem packPte_setWidth (e : PTE) :
    (packPte e).setWidth 16 = BitVec.ofNat 16 (e.valid.toNat * 16 + e.ppn.toNat) := by
  rw [← packPte_toNat, BitVec.ofNat_toNat]

/-- PTLOOKUP has one outcome: the stored entry, packed and zero-extended, whatever its valid bit (41_page_table.md
R91). -/
theorem exec_ptlookup_eq (pn : PageNo) (s : State) :
    exec (.ptlookup pn) s = .next (respond .ok false 0 ((packPte (s.pte pn)).setWidth 16) s) := rfl

/-- Settles O25: PTLOOKUP only responds, and its data is the number of the stored entry. -/
theorem ptlookupAnswersTheStoredEntry : Obligations.PtlookupAnswersTheStoredEntry := by
  intro pn s
  have hexec := exec_ptlookup_eq pn s
  rw [packPte_setWidth] at hexec
  exact answers_and_keeps_of_exec_eq_respond hexec

end Sys2Proof.Machine

/-! PROOFS. The TLB commands FIND and VICTIM, whose outcome is that of one scan in slot order (42_tlb.md R100, R101,
R107, R108). -/

namespace Sys2Proof.Machine

/-- A lookup finds one slot only: the scan that gives it is a function (42_tlb.md R100). -/
theorem Finds.unique {s : State} {n : PageNo} {i j : SlotIx} (hi : Finds s n i) (hj : Finds s n j) : i = j :=
  Option.some.inj (((findSlot_eq_some_iff n s i).2 hi).symm.trans ((findSlot_eq_some_iff n s j).2 hj))

/-- A page that is found in a slot is not missed (42_tlb.md R100). -/
theorem Finds.not_misses {s : State} {n : PageNo} {i : SlotIx} (hfound : Finds s n i) : ¬ Misses s n := by
  obtain ⟨hholds, -⟩ := hfound
  exact fun hmiss => hmiss i hholds

/-- FIND of a page that a slot holds answers a hit in the slot found (42_tlb.md R101). -/
theorem exec_find_of_finds {s : State} {pn : PageNo} {i : SlotIx} (hfound : Finds s pn i) :
    exec (.find pn) s = .next (respond .ok true i 0 s) := by
  simp only [exec, execFind, (findSlot_eq_some_iff pn s i).2 hfound]

/-- FIND of a page that no slot holds answers no hit (42_tlb.md R101). -/
theorem exec_find_of_misses {s : State} {pn : PageNo} (hmiss : Misses s pn) :
    exec (.find pn) s = .next (respond .ok false 0 0 s) := by
  simp only [exec, execFind, (findSlot_eq_none_iff pn s).2 hmiss]

/-- VICTIM reports the lowest slot of rank 3 (42_tlb.md R108). -/
theorem exec_victim_of_isVictim {s : State} {v : SlotIx} (hvictim : IsVictim s v) :
    exec .victim s = .next (respond .ok false v 0 s) := by
  simp only [exec, execVictim, (victimSlot_eq_some_iff s v).2 hvictim]

/-- VICTIM takes the internal fault where no slot has rank 3 (42_tlb.md R108; 60_exceptions.md R151). -/
theorem exec_victim_of_noVictim {s : State} (hnone : NoVictim s) :
    exec .victim s = .next (takeFault .internalConsistency s) := by
  simp only [exec, execVictim, (victimSlot_eq_none_iff s).2 hnone]

/-- Settles O26: the page is found or missed, each excludes the other, and both paths only respond. -/
theorem findAnswersTheLowestMatch : Obligations.FindAnswersTheLowestMatch := by
  intro pn s
  rcases finds_or_misses s pn with ⟨i, hfound⟩ | hmiss
  · refine ⟨_, exec_find_of_finds hfound, sameButResponse_respond .., ?answersHit,
      fun hmiss => absurd hmiss hfound.not_misses⟩
    intro j hj
    obtain rfl := hfound.unique hj
    exact answers_respond ..
  · exact ⟨_, exec_find_of_misses hmiss, sameButResponse_respond .., fun i hi => absurd hmiss hi.not_misses,
      fun _ => answers_respond ..⟩

/-- Settles O30: the scan for rank 3 gives the response, or the internal fault, which writes `fatal` alone. -/
theorem victimAnswersTheRankThreeSlot : Obligations.VictimAnswersTheRankThreeSlot := by
  intro s
  constructor
  · intro v hvictim
    exact answers_and_keeps_of_exec_eq_respond (exec_victim_of_isVictim hvictim)
  · intro hnone
    exact ⟨_, exec_victim_of_noVictim hnone, answers_internalConsistency s, takeFault_internalConsistency_fatal s,
      takeFault_slots _ s, takeFault_pt _ s, takeFault_events _ s⟩

end Sys2Proof.Machine

/-! PROOFS. The TLB commands TOUCH and INSTALL, which write the slots and the response port and nothing else (42_tlb.md
R103, R104, R111 to R113). -/

namespace Sys2Proof.Machine

/-- TOUCH has one outcome: the touch, and a response that names the slot (42_tlb.md R104). -/
theorem exec_touch_eq (i : SlotIx) (s : State) :
    exec (.touch i) s = .next (respond .ok false i 0 (touchSlot i s)) := rfl

/-- INSTALL has one outcome: the install, and a response that names the slot (42_tlb.md R113). -/
theorem exec_install_eq (i : SlotIx) (ppn vpn : PageNo) (s : State) :
    exec (.install i ppn vpn) s = .next (respond .ok false i 0 (installSlot i ppn vpn s)) := rfl

/-- A slot of a rank below the touched slot's old rank moves down by one (42_tlb.md R103). -/
theorem rerank_of_lt {i j : SlotIx} {rOld r : Rank} (hne : j ≠ i) (hlt : r < rOld) : rerank i rOld j r = r + 1 := by
  rw [rerank, if_neg hne, if_pos hlt]

/-- A slot of a rank not below the touched slot's old rank keeps it (42_tlb.md R103). -/
theorem rerank_of_not_lt {i j : SlotIx} {rOld r : Rank} (hne : j ≠ i) (hge : ¬ r < rOld) :
    rerank i rOld j r = r := by
  rw [rerank, if_neg hne, if_neg hge]

/-- `touch` writes ranks alone (42_tlb.md R103). -/
theorem sameButRanks_touchSlot (i : SlotIx) (s : State) : SameButRanks s (touchSlot i s) :=
  ⟨⟨touchSlot_pt i s, touchSlot_fatal i s, touchSlot_events i s⟩, fun j => by simp⟩

/-- `install` leaves the page table and `fatal` (42_tlb.md R111). -/
theorem sameButSlots_installSlot (i : SlotIx) (ppn vpn : PageNo) (s : State) :
    SameButSlots s (installSlot i ppn vpn s) :=
  ⟨installSlot_pt i ppn vpn s, installSlot_fatal i ppn vpn s, installSlot_events i ppn vpn s⟩

/-- The installed slot holds the mapping, valid and most recently used (42_tlb.md R111). -/
theorem installSlot_slot_self (i : SlotIx) (ppn vpn : PageNo) (s : State) :
    (installSlot i ppn vpn s).slot i = { valid := true, rank := 0, vpn := vpn, ppn := ppn } := by
  rw [installSlot_slot, if_pos rfl]

/-- `install` does to another slot what a touch does: it changes its rank alone (42_tlb.md R111). -/
theorem installSlot_slot_of_ne {i j : SlotIx} (hne : j ≠ i) (ppn vpn : PageNo) (s : State) :
    (installSlot i ppn vpn s).slot j =
      { s.slot j with rank := rerank i (s.slot i).rank j (s.slot j).rank } := by
  rw [installSlot_slot, if_neg hne]

/-- Settles O27: the ranks are those of R103 and the response leaves the touched slots as they are. -/
theorem touchReranksAllFour : Obligations.TouchReranksAllFour := by
  intro i s
  exact ⟨_, exec_touch_eq i s, answers_respond .., ranksTouched_touchSlot i s, sameButRanks_touchSlot i s⟩

/-- Settles O34: the installed slot is overwritten, and another one moves down or stays by its rank before. -/
theorem installOverwritesAndTouches : Obligations.InstallOverwritesAndTouches := by
  intro i ppn vpn s
  refine ⟨_, exec_install_eq i ppn vpn s, answers_respond .., installSlot_slot_self i ppn vpn s, ?lower, ?higher,
    sameButSlots_installSlot i ppn vpn s⟩
  case lower =>
    intro j hne hlt
    rw [respond_slot, installSlot_slot_of_ne hne, rerank_of_lt hne hlt]
  case higher =>
    intro j hne hge
    rw [respond_slot, installSlot_slot_of_ne hne, rerank_of_not_lt hne hge]

end Sys2Proof.Machine

/-! PROOFS. The translator's hit path and fill path: what TRANSLATE does on each, and what it answers
(43_translator.md R131, R133). -/

namespace Sys2Proof.Machine

/-- A physical address as one number: the page number weighs 4096, the offset is what the virtual address leaves
(40_address_codec.md R81). -/
theorem physicalAddress_eq_ofNat (va : Addr) (ppn : PageNo) :
    physicalAddress va ppn = BitVec.ofNat 16 (ppn.toNat * 4096 + va.toNat % 4096) := by
  rw [← physicalAddress_toNat, BitVec.ofNat_toNat, BitVec.setWidth_eq]

/-- TRANSLATE of a page that a slot holds takes the hit path with the slot found (43_translator.md R131). -/
theorem exec_translate_of_finds {va : Addr} {s : State} {i : SlotIx} (hfound : Finds s (pageNumber va) i) :
    exec (.translate va) s = .next (translateHit va i s) := by
  simp only [exec, execTranslate, (findSlot_eq_some_iff _ s i).2 hfound]

/-- TRANSLATE of a page that no slot holds and whose entry is valid takes the fill path into the victim
(43_translator.md R133). -/
theorem exec_translate_of_misses_of_isVictim {va : Addr} {s : State} {v : SlotIx}
    (hmiss : Misses s (pageNumber va)) (hvalid : (s.pte (pageNumber va)).valid = true) (hvictim : IsVictim s v) :
    exec (.translate va) s = .next (translateFill va (s.pte (pageNumber va)).ppn v s) := by
  simp only [exec, execTranslate, (findSlot_eq_none_iff _ s).2 hmiss, translateMiss, ptLookup, if_pos hvalid,
    (victimSlot_eq_some_iff s v).2 hvictim]

/-- A hit answers OK with the slot found and the physical address of its ppn (43_translator.md R131). -/
theorem answers_translateHit (va : Addr) (i : SlotIx) (s : State) :
    Answers (translateHit va i s) 0 true i (BitVec.ofNat 16 ((s.slot i).ppn.toNat * 4096 + va.toNat % 4096)) := by
  rw [← physicalAddress_eq_ofNat]
  exact answers_respond .ok ..

/-- A fill answers OK, no hit, with the slot filled and the physical address of the entry's ppn (43_translator.md
R133). -/
theorem answers_translateFill (va : Addr) (ppn : PageNo) (v : SlotIx) (s : State) :
    Answers (translateFill va ppn v s) 0 false v (BitVec.ofNat 16 (ppn.toNat * 4096 + va.toNat % 4096)) := by
  rw [← physicalAddress_eq_ofNat]
  exact answers_respond .ok ..

/-- The hit path neither reads nor writes the page table: under any other table it does the same (43_translator.md
R131). -/
theorem translateHit_replace_pt (va : Addr) (i : SlotIx) (s : State) (pt' : Vector PTE 16) :
    translateHit va i { s with pt := pt' } = { translateHit va i s with pt := pt' } := rfl

/-- `install` changes the mapping of its own slot only (42_tlb.md R111). -/
theorem installSlot_keeps_mapping_of_ne {i j : SlotIx} (hne : j ≠ i) (ppn vpn : PageNo) (s : State) :
    ((installSlot i ppn vpn s).slot j).valid = (s.slot j).valid ∧
      ((installSlot i ppn vpn s).slot j).vpn = (s.slot j).vpn ∧
      ((installSlot i ppn vpn s).slot j).ppn = (s.slot j).ppn := by
  rw [installSlot_slot_of_ne hne]
  exact ⟨rfl, rfl, rfl⟩

/-- A fill writes the slots and the response port only (43_translator.md R133). -/
theorem sameButSlots_translateFill (va : Addr) (ppn : PageNo) (v : SlotIx) (s : State) :
    SameButSlots s (translateFill va ppn v s) :=
  sameButSlots_installSlot v ppn (pageNumber va) s

/-- Settles O37: the hit path is a touch and a response. A lookup reads the slots alone, so the page is found in the
same slot under any page table. -/
theorem translateHitUsesTheSlot : Obligations.TranslateHitUsesTheSlot := by
  intro va i s hfound
  refine ⟨translateHit va i s, exec_translate_of_finds hfound, answers_translateHit va i s,
    ranksTouched_touchSlot i s, sameButRanks_touchSlot i s, ?anyPageTable⟩
  intro pt'
  have hfound' : Finds { s with pt := pt' } (pageNumber va) i := hfound
  rw [exec_translate_of_finds hfound', translateHit_replace_pt]

/-- Settles O39: the fill path is an install into the victim and a response. -/
theorem translateFillsTheVictim : Obligations.TranslateFillsTheVictim := by
  intro va v s hmiss hvalid hvictim
  exact ⟨_, exec_translate_of_misses_of_isVictim hmiss hvalid hvictim, answers_translateFill va _ v s,
    installSlot_slot_self v _ (pageNumber va) s, ranksTouched_installSlot v _ (pageNumber va) s,
    fun j hne => installSlot_keeps_mapping_of_ne hne _ (pageNumber va) s,
    sameButSlots_translateFill va _ v s⟩

end Sys2Proof.Machine

/-! PROOFS. Faults: which commands raise them, that each writes no state but `fatal`, and the fatal halt, which only
reset ends (60_exceptions.md R150 to R155). -/

namespace Sys2Proof.Machine

/-- TRANSLATE of a page that no slot holds and whose entry is invalid takes the page fault (43_translator.md R132). -/
theorem exec_translate_of_misses_of_invalid {va : Addr} {s : State} (hmiss : Misses s (pageNumber va))
    (hinvalid : (s.pte (pageNumber va)).valid = false) :
    exec (.translate va) s = .next (takeFault (.pageFault va) s) := by
  simp [exec, execTranslate, (findSlot_eq_none_iff _ s).2 hmiss, translateMiss, ptLookup, hinvalid]

/-- A command answers OK, or takes the page fault of a TRANSLATE that misses on an invalid entry, or takes the internal
fault where no slot has rank 3 (60_exceptions.md R150, R151). -/
theorem exec_status_cases {i : Instr} {s t : State} (h : exec i s = .next t) :
    StatusIs t 0 ∨
    (∃ va, i = .translate va ∧ Misses s (pageNumber va) ∧ (s.pte (pageNumber va)).valid = false ∧
      t = takeFault (.pageFault va) s) ∨
    (NoVictim s ∧ t = takeFault .internalConsistency s) := by
  cases i with
  | translate va =>
    rcases exec_translate_cases h with ⟨i, -, rfl⟩ | ⟨hmiss, hinvalid, rfl⟩ | ⟨v, -, -, -, rfl⟩ | ⟨-, -, hnone, rfl⟩
    · exact .inl (answers_translateHit va i s).statusIs
    · exact .inr (.inl ⟨va, rfl, hmiss, hinvalid, rfl⟩)
    · exact .inl (answers_translateFill va _ v s).statusIs
    · exact .inr (.inr ⟨hnone, rfl⟩)
  | find pn =>
    rcases exec_find_cases h with ⟨i, -, rfl⟩ | ⟨-, rfl⟩
    · exact .inl (statusIs_respond .ok ..)
    · exact .inl (statusIs_respond .ok ..)
  | victim =>
    rcases exec_victim_cases h with ⟨v, -, rfl⟩ | ⟨hnone, rfl⟩
    · exact .inl (statusIs_respond .ok ..)
    · exact .inr (.inr ⟨hnone, rfl⟩)
  | touch slot | install slot ppn vpn | ptlookup pn | ranks | pgnum va | physaddr va ppn =>
    obtain rfl := Host.Outcome.next.inj h
    exact .inl (statusIs_respond .ok ..)

/-- A command that answers PageFault is a TRANSLATE that misses on an invalid entry (60_exceptions.md R150). -/
theorem exec_pageFault_cases {i : Instr} {s t : State} (h : exec i s = .next t) (hstatus : StatusIs t 1) :
    ∃ va, i = .translate va ∧ Misses s (pageNumber va) ∧ (s.pte (pageNumber va)).valid = false ∧
      t = takeFault (.pageFault va) s := by
  rcases exec_status_cases h with hok | hfault | ⟨-, rfl⟩
  · exact absurd (hstatus.unique hok) (by decide)
  · exact hfault
  · exact absurd (hstatus.unique (answers_internalConsistency s).statusIs) (by decide)

/-- During the halt the answer is that of taking the internal fault again: `fatal` is set already (60_exceptions.md
R153). -/
theorem answerHalted_eq_takeFault {s : State} (hhalt : s.fatal = true) :
    answerHalted s = takeFault .internalConsistency s :=
  congrArg (fun fatal => respond .internalConsistencyFault false 0 0 { s with fatal := fatal }) hhalt

/-- A step on a word answers OK or is the taking of one fault (60_exceptions.md R150 to R153). -/
theorem step_command_ok_or_takeFault {s t : State} {w : Word} {rest : List HostEvent}
    (hev : s.events = .command w :: rest) (hstep : step s = .next t) :
    StatusIs t 0 ∨ ∃ c, t = takeFault c (takeEvents rest s) := by
  rcases step_cases hstep with ⟨hnil, -⟩ | ⟨p, rest', hev', -⟩ | ⟨w', rest', hev', hhalt, rfl⟩ |
    ⟨w', rest', e, hev', -, -, rfl⟩ | ⟨w', rest', i, hev', -, -, hexec⟩
  · cases hev.symm.trans hnil
  · cases hev.symm.trans hev'
  · cases hev.symm.trans hev'
    exact .inr ⟨.internalConsistency, answerHalted_eq_takeFault hhalt⟩
  · cases hev.symm.trans hev'
    exact .inr ⟨.illegalCommand, rfl⟩
  · cases hev.symm.trans hev'
    rcases exec_status_cases hexec with hok | ⟨va, -, -, -, rfl⟩ | ⟨-, rfl⟩
    · exact .inl hok
    · exact .inr ⟨.pageFault va, rfl⟩
    · exact .inr ⟨.internalConsistency, rfl⟩

/-- Taking a fault sets `fatal` if it answers the internal fault, and leaves it otherwise (60_exceptions.md R155). -/
theorem takeFault_fatal_of_statusIs {c : Cause} {s : State} {status : BitVec 2}
    (hstatus : StatusIs (takeFault c s) status) :
    (status ≠ 2 → (takeFault c s).fatal = s.fatal) ∧ (status = 2 → (takeFault c s).fatal = true) := by
  cases c with
  | pageFault va =>
    obtain rfl := hstatus.unique (answers_pageFault va s).statusIs
    simp
  | internalConsistency =>
    obtain rfl := hstatus.unique (answers_internalConsistency s).statusIs
    simp
  | illegalCommand =>
    obtain rfl := hstatus.unique (answers_illegalCommand s).statusIs
    simp

/-- A word presented to a halted block is answered without being decoded (60_exceptions.md R153, R154). -/
theorem step_of_halted {s : State} {w : Word} {rest : List HostEvent} (hev : s.events = .command w :: rest)
    (hhalt : s.fatal = true) : step s = .next (answerHalted (takeEvents rest s)) := by
  simp [step_cons hev, acceptEvent, acceptCommand, hhalt]

/-- A reset is accepted in every state (70_reset_and_hazards.md R173). -/
theorem step_of_reset {s : State} {p : ResetParams} {rest : List HostEvent} (hev : s.events = .reset p :: rest) :
    step s = .next (applyReset p (takeEvents rest s)) :=
  step_cons hev

/-- A step that ends the halt accepted a reset (60_exceptions.md R153). -/
theorem step_clears_fatal_cases {s t : State} (hhalt : s.fatal = true) (hstep : step s = .next t)
    (hclear : t.fatal = false) : ∃ p rest, s.events = .reset p :: rest := by
  rcases step_cases hstep with ⟨-, rfl⟩ | ⟨p, rest, hev, -⟩ | ⟨w, rest, -, -, rfl⟩ | ⟨w, rest, e, -, hrun, -⟩ |
    ⟨w, rest, i, -, hrun, -⟩
  · simp [hhalt] at hclear
  · exact ⟨p, rest, hev⟩
  · simp [answerHalted, hhalt] at hclear
  · simp [hhalt] at hrun
  · simp [hhalt] at hrun

/-- Settles O46: the halt's answer only responds, and of the steps from a halted state only a reset clears `fatal`. -/
theorem haltedBlockExecutesNothing : Obligations.HaltedBlockExecutesNothing := by
  refine ⟨?everyWord, fun s t => step_clears_fatal_cases, fun s p rest hev => ⟨_, step_of_reset hev, rfl⟩⟩
  intro s w rest hev hhalt
  obtain ⟨hstorage, hevents⟩ := sameButResponse_respond .internalConsistencyFault false 0 0 (takeEvents rest s)
  exact ⟨_, step_of_halted hev hhalt, answers_respond .internalConsistencyFault .., hstorage, hevents⟩

/-- Settles O47: a step on a word that does not answer OK takes one fault, and taking a fault writes at most `fatal`. -/
theorem faultsArePrecise : Obligations.FaultsArePrecise := by
  intro s t w rest status hev hstep hstatus hne
  rcases step_command_ok_or_takeFault hev hstep with hok | ⟨c, rfl⟩
  · exact absurd (hstatus.unique hok) hne
  · exact ⟨takeFault_slots c _, takeFault_pt c _, takeFault_events c _, takeFault_fatal_of_statusIs hstatus⟩

/-- Settles O52: the page fault comes from one path of TRANSLATE, and that path only responds. -/
theorem onlyMissingTranslatesPageFault : Obligations.OnlyMissingTranslatesPageFault := by
  intro i s t hexec
  refine ⟨⟨fun hstatus => ?raisedBy, ?raises⟩, ?onlyResponds⟩
  case raisedBy =>
    obtain ⟨va, hi, hmiss, hinvalid, -⟩ := exec_pageFault_cases hexec hstatus
    exact ⟨va, hi, hmiss, hinvalid⟩
  case raises =>
    rintro ⟨va, rfl, hmiss, hinvalid⟩
    obtain rfl := Host.Outcome.next.inj ((exec_translate_of_misses_of_invalid hmiss hinvalid).symm.trans hexec)
    exact (answers_pageFault va s).statusIs
  case onlyResponds =>
    rintro va rfl hstatus
    obtain ⟨va', hva, -, -, rfl⟩ := exec_pageFault_cases hexec hstatus
    obtain rfl := Instr.translate.inj hva
    exact ⟨answers_pageFault va s, sameButResponse_respond .pageFault false 0 va s⟩

end Sys2Proof.Machine

/-! PROOFS. The rank permutation as an injection of the slots into the ranks, and what a touch does to it (10_state.md
R25; 42_tlb.md R103, R105, R106). -/

namespace Sys2Proof.Machine

/-- There are as many ranks as slots, so the ranks are a permutation exactly when no two slots share one (10_state.md
R25). -/
theorem ranksPermuted_iff_injective (s : State) :
    RanksPermuted s ↔ Function.Injective fun i => (s.slot i).rank := by
  constructor
  · intro hperm i j hrank
    obtain ⟨k, -, honly⟩ := hperm (s.slot i).rank
    exact (honly i rfl).trans (honly j hrank.symm).symm
  · intro hinj r
    have hsurj : Function.Surjective fun i => ((s.slot i).rank.toFin : SlotIx) :=
      Finite.surjective_of_injective fun i j h => hinj (BitVec.toFin_inj.1 h)
    obtain ⟨i, hi⟩ := hsurj r.toFin
    have hrank : (s.slot i).rank = r := BitVec.toFin_inj.1 hi
    exact ⟨i, hrank, fun j hj => hinj (hj.trans hrank.symm)⟩

/-- The rank permutation is about the ranks alone. -/
theorem RanksPermuted.congr {s t : State} (hs : RanksPermuted s) (h : ∀ j, (t.slot j).rank = (s.slot j).rank) :
    RanksPermuted t := by
  simpa only [RanksPermuted, h] using hs

/-- With permuted ranks two different slots have different ranks, as numbers. -/
theorem RanksPermuted.toNat_ne {s : State} (hs : RanksPermuted s) {i j : SlotIx} (hne : i ≠ j) :
    (s.slot i).rank.toNat ≠ (s.slot j).rank.toNat :=
  fun h => hne ((ranksPermuted_iff_injective s).1 hs (BitVec.eq_of_toNat_eq h))

/-- With permuted ranks some slot has rank 3 (42_tlb.md R109). -/
theorem RanksPermuted.exists_isVictim {s : State} (hs : RanksPermuted s) : ∃ v, IsVictim s v := by
  obtain ⟨i, hi, -⟩ := hs 3
  exact (isVictim_or_noVictim s).resolve_right fun hnone => hnone i hi

/-- With permuted ranks the internal fault cannot be raised (42_tlb.md R109). -/
theorem RanksPermuted.not_noVictim {s : State} (hs : RanksPermuted s) : ¬ NoVictim s := by
  obtain ⟨v, hrank, -⟩ := hs.exists_isVictim
  exact fun hnone => hnone v hrank

/-- Every rank after a touch as a number (42_tlb.md R103). -/
theorem RanksTouched.rank_toNat {i : SlotIx} {s t : State} (h : RanksTouched i s t) (j : SlotIx) :
    (t.slot j).rank.toNat =
      if j = i then 0
      else if (s.slot j).rank.toNat < (s.slot i).rank.toNat then (s.slot j).rank.toNat + 1
      else (s.slot j).rank.toNat := by
  obtain ⟨hself, hbelow, habove⟩ := h
  split_ifs with hji hlt
  · rw [hji, hself]; rfl
  · exact hbelow j hji (BitVec.lt_def.2 hlt)
  · rw [habove j hji (mt BitVec.lt_def.1 hlt)]

/-- With permuted ranks no other slot shares the front with the touched one (42_tlb.md R105). -/
theorem RanksTouched.rank_pos {i j : SlotIx} {s t : State} (h : RanksTouched i s t) (hs : RanksPermuted s)
    (hne : j ≠ i) : 0 < (t.slot j).rank.toNat := by
  have := hs.toNat_ne hne
  rw [h.rank_toNat, if_neg hne]
  split <;> omega

/-- A touch keeps the order of every pair of other slots (42_tlb.md R105). -/
theorem RanksTouched.lt_iff {i j k : SlotIx} {s t : State} (h : RanksTouched i s t) (hs : RanksPermuted s)
    (hj : j ≠ i) (hk : k ≠ i) : (t.slot j).rank < (t.slot k).rank ↔ (s.slot j).rank < (s.slot k).rank := by
  have := hs.toNat_ne hj
  have := hs.toNat_ne hk
  rw [BitVec.lt_def, BitVec.lt_def, h.rank_toNat j, h.rank_toNat k, if_neg hj, if_neg hk]
  split <;> split <;> omega

/-- A touch keeps the ranks a permutation (42_tlb.md R105): the touched slot alone has rank 0, and the order of the
others tells them apart. -/
theorem RanksTouched.ranksPermuted {i : SlotIx} {s t : State} (h : RanksTouched i s t) (hs : RanksPermuted s) :
    RanksPermuted t := by
  have ⟨hself, _⟩ := h
  have hfront : ∀ k, k ≠ i → (t.slot k).rank ≠ 0 := fun k hk hzero => by
    simpa [hzero] using h.rank_pos hs hk
  refine (ranksPermuted_iff_injective t).2 fun j k hrank => ?_
  replace hrank : (t.slot j).rank = (t.slot k).rank := hrank
  by_cases hj : j = i
  · subst hj
    exact by_contra fun hne => hfront k (Ne.symm hne) (hrank.symm.trans hself)
  by_cases hk : k = i
  · subst hk
    exact absurd (hrank.trans hself) (hfront j hj)
  have hjk : ¬ (s.slot j).rank < (s.slot k).rank := (h.lt_iff hs hj hk).not.1 (by simp [hrank])
  have hkj : ¬ (s.slot k).rank < (s.slot j).rank := (h.lt_iff hs hk hj).not.1 (by simp [hrank])
  exact not_imp_comm.1 hs.toNat_ne (by rw [BitVec.lt_def] at hjk hkj; omega)

end Sys2Proof.Machine

/-! PROOFS. What a command does to the slots, the ranks and `fatal`, and what a step does to the storage, each said once
(30_encoding.md R64, R72). -/

namespace Sys2Proof.Machine

/-- What command `i` does to the slots: nothing, a touch of slot `k`, or an install into slot `k`, each with the
commands and paths that do it (30_encoding.md R64, its columns for slots and ranks). -/
inductive SlotEffect (i : Instr) (s t : State) : Prop where
  /-- No slot is written. -/
  | kept (hslot : ∀ j, t.slot j = s.slot j)
  /-- TOUCH, or the hit path of TRANSLATE. -/
  | touched (k : SlotIx)
      (hby : i = .touch k ∨ ∃ va, i = .translate va ∧ Finds s (pageNumber va) k)
      (hslot : ∀ j, t.slot j = (touchSlot k s).slot j)
  /-- INSTALL, or the fill path of TRANSLATE. -/
  | installed (k : SlotIx) (ppn vpn : PageNo)
      (hby : i = .install k ppn vpn ∨ ∃ va, i = .translate va ∧ vpn = pageNumber va ∧ Misses s vpn ∧
        (s.pte vpn).valid = true ∧ ppn = (s.pte vpn).ppn ∧ IsVictim s k)
      (hslot : ∀ j, t.slot j = (installSlot k ppn vpn s).slot j)

/-- Every command has one of the three effects on the slots. -/
theorem exec_slotEffect {i : Instr} {s t : State} (h : exec i s = .next t) : SlotEffect i s t := by
  cases i with
  | translate va =>
    rcases exec_translate_cases h with ⟨k, hfound, rfl⟩ | ⟨-, -, rfl⟩ | ⟨v, hmiss, hvalid, hvictim, rfl⟩ |
      ⟨-, -, -, rfl⟩
    · exact .touched k (.inr ⟨va, rfl, hfound⟩) fun j => rfl
    · exact .kept fun j => by simp
    · exact .installed v _ (pageNumber va) (.inr ⟨va, rfl, rfl, hmiss, hvalid, rfl, hvictim⟩) fun j => rfl
    · exact .kept fun j => by simp
  | touch k =>
    obtain rfl := Host.Outcome.next.inj h
    exact .touched k (.inl rfl) fun j => rfl
  | install k ppn vpn =>
    obtain rfl := Host.Outcome.next.inj h
    exact .installed k ppn vpn (.inl rfl) fun j => rfl
  | find pn => rcases exec_find_cases h with ⟨k, -, rfl⟩ | ⟨-, rfl⟩ <;> exact .kept fun j => rfl
  | victim => rcases exec_victim_cases h with ⟨v, -, rfl⟩ | ⟨-, rfl⟩ <;> exact .kept fun j => by simp
  | ptlookup pn | ranks | pgnum va | physaddr va ppn =>
    obtain rfl := Host.Outcome.next.inj h
    exact .kept fun j => rfl

/-- A command leaves the ranks or touches one slot (42_tlb.md R103, R111). -/
theorem exec_ranks_cases {i : Instr} {s t : State} (h : exec i s = .next t) :
    (∀ j, (t.slot j).rank = (s.slot j).rank) ∨ ∃ k, RanksTouched k s t := by
  cases exec_slotEffect h with
  | kept hslot => exact .inl fun j => by rw [hslot]
  | touched k _ hslot =>
    refine .inr ⟨k, ?_⟩
    simpa only [RanksTouched, hslot] using ranksTouched_touchSlot k s
  | installed k ppn vpn _ hslot =>
    refine .inr ⟨k, ?_⟩
    simpa only [RanksTouched, hslot] using ranksTouched_installSlot k ppn vpn s

/-- A command leaves `fatal`, or it is VICTIM or a TRANSLATE that misses on a valid entry, and takes the internal fault
where no slot has rank 3 (60_exceptions.md R151). -/
theorem exec_fatal_cases {i : Instr} {s t : State} (h : exec i s = .next t) :
    t.fatal = s.fatal ∨
    (NoVictim s ∧ t = takeFault .internalConsistency s ∧
      (i = .victim ∨ ∃ va, i = .translate va ∧ Misses s (pageNumber va) ∧ (s.pte (pageNumber va)).valid = true)) := by
  cases i with
  | translate va =>
    rcases exec_translate_cases h with ⟨k, -, rfl⟩ | ⟨-, -, rfl⟩ | ⟨v, -, -, -, rfl⟩ | ⟨hmiss, hvalid, hnone, rfl⟩
    · exact .inl rfl
    · exact .inl rfl
    · exact .inl rfl
    · exact .inr ⟨hnone, rfl, .inr ⟨va, rfl, hmiss, hvalid⟩⟩
  | victim =>
    rcases exec_victim_cases h with ⟨v, -, rfl⟩ | ⟨hnone, rfl⟩
    · exact .inl rfl
    · exact .inr ⟨hnone, rfl, .inl rfl⟩
  | find pn => rcases exec_find_cases h with ⟨k, -, rfl⟩ | ⟨-, rfl⟩ <;> exact .inl rfl
  | touch k | install k ppn vpn | ptlookup pn | ranks | pgnum va | physaddr va ppn =>
    obtain rfl := Host.Outcome.next.inj h
    exact .inl rfl

/-- What a step does to the storage: it holds it, it is a reset, or it executes a command (30_encoding.md R72). -/
theorem step_storage_cases {s t : State} (h : step s = .next t) :
    SameStorage s t ∨
    (∃ p rest, s.events = .reset p :: rest ∧ t = applyReset p (takeEvents rest s)) ∨
    (∃ w rest i, s.events = .command w :: rest ∧ s.fatal = false ∧ decodeWord w = .ok i ∧
      exec i (takeEvents rest s) = .next t) := by
  rcases step_cases h with ⟨-, rfl⟩ | hreset | ⟨w, rest, -, -, rfl⟩ | ⟨w, rest, e, -, -, -, rfl⟩ | hexec
  · exact .inl ⟨rfl, rfl, rfl⟩
  · exact .inr (.inl hreset)
  · exact .inl ⟨rfl, rfl, rfl⟩
  · exact .inl ⟨rfl, rfl, rfl⟩
  · exact .inr (.inr hexec)

/-- The same storage has the same slots, one by one. -/
theorem SameStorage.slot_eq {s t : State} (h : SameStorage s t) (j : SlotIx) : t.slot j = s.slot j := by
  obtain ⟨hslots, -, -⟩ := h
  exact (State.slots_eq_iff s t).1 hslots j

end Sys2Proof.Machine

/-! PROOFS. The rank permutation and the safety of the block: reset gives them, every command and every step keeps them,
so every run from reset has them (10_state.md R25, R30; 42_tlb.md R105, R109). -/

namespace Sys2Proof.Machine

/-- Reset ranks the slots in slot order, each at its own place (70_reset_and_hazards.md R171). -/
theorem ranksPermuted_resetWith (p : ResetParams) : RanksPermuted (State.resetWith p) := by
  refine (ranksPermuted_iff_injective _).2 fun i j h => ?_
  simpa using h

/-- After reset slot 3 is the victim (70_reset_and_hazards.md R171). -/
theorem isVictim_resetWith (p : ResetParams) : IsVictim (State.resetWith p) 3 := by
  simp only [IsVictim, State.resetWith_slot, Slot.atReset_rank]
  decide

/-- The block is safe after reset with any parameters (10_state.md R25, R30). -/
theorem safe_resetWith (p : ResetParams) : Safe (State.resetWith p) :=
  ⟨ranksPermuted_resetWith p, State.resetWith_fatal p⟩

/-- Every command keeps the ranks a permutation (10_state.md R25). -/
theorem exec_preserves_ranksPermuted {i : Instr} {s t : State} (hs : RanksPermuted s) (h : exec i s = .next t) :
    RanksPermuted t := by
  rcases exec_ranks_cases h with hkept | ⟨k, htouched⟩
  · exact hs.congr hkept
  · exact htouched.ranksPermuted hs

/-- With permuted ranks no command writes `fatal` (42_tlb.md R109). -/
theorem exec_keeps_fatal_of_ranksPermuted {i : Instr} {s t : State} (hs : RanksPermuted s)
    (h : exec i s = .next t) : t.fatal = s.fatal := by
  rcases exec_fatal_cases h with hkept | ⟨hnone, -, -⟩
  · exact hkept
  · exact absurd hnone hs.not_noVictim

/-- With permuted ranks no command answers the internal fault (42_tlb.md R109). -/
theorem exec_not_internalFault_of_ranksPermuted {i : Instr} {s t : State} (hs : RanksPermuted s)
    (h : exec i s = .next t) : ¬ StatusIs t 2 := by
  intro hfault
  rcases exec_status_cases h with hok | ⟨va, -, -, -, rfl⟩ | ⟨hnone, -⟩
  · exact absurd (hok.unique hfault) (by decide)
  · exact absurd ((answers_pageFault va s).statusIs.unique hfault) (by decide)
  · exact hs.not_noVictim hnone

/-- Settles O2: a step holds the storage, resets, or executes a command, and each keeps the permutation. -/
theorem everyStepKeepsRanksPermuted : Obligations.EveryStepKeepsRanksPermuted := by
  intro s t hs hstep
  rcases step_storage_cases hstep with hsame | ⟨p, rest, -, rfl⟩ | ⟨w, rest, i, -, -, -, hexec⟩
  · exact hs.congr fun j => by rw [hsame.slot_eq]
  · exact ranksPermuted_resetWith p
  · exact exec_preserves_ranksPermuted (s := takeEvents rest s) hs hexec

/-- A step from a safe state is not one of the halt, and its command finds a victim wherever it needs one. -/
theorem step_preserves_safe {s t : State} (hs : Safe s) (hstep : step s = .next t) : Safe t := by
  obtain ⟨hperm, hrun⟩ := hs
  refine ⟨everyStepKeepsRanksPermuted s t hperm hstep, ?_⟩
  rcases step_storage_cases hstep with ⟨-, -, hfatal⟩ | ⟨p, rest, -, rfl⟩ | ⟨w, rest, i, -, -, -, hexec⟩
  · exact hfatal.trans hrun
  · rfl
  · exact (exec_keeps_fatal_of_ranksPermuted (s := takeEvents rest s) hperm hexec).trans hrun

/-- A word presented to a safe block is not answered with the internal fault (42_tlb.md R109). -/
theorem step_command_not_internalFault {s t : State} {w : Word} {rest : List HostEvent} (hs : Safe s)
    (hev : s.events = .command w :: rest) (hstep : step s = .next t) : ¬ StatusIs t 2 := by
  obtain ⟨hperm, hrun⟩ := hs
  rcases step_cases hstep with ⟨hnil, -⟩ | ⟨p, rest', hev', -⟩ | ⟨w', rest', -, hhalt, -⟩ |
    ⟨w', rest', e, -, -, -, rfl⟩ | ⟨w', rest', i, -, -, -, hexec⟩
  · cases hev.symm.trans hnil
  · cases hev.symm.trans hev'
  · simp [hrun] at hhalt
  · exact fun hfault => absurd ((answers_illegalCommand _).statusIs.unique hfault) (by decide)
  · exact exec_not_internalFault_of_ranksPermuted (s := takeEvents rest' s) hperm hexec

/-- Settles O51: the step keeps safety, and a word that a safe block executes finds the victim it needs. -/
theorem everyStepKeepsTheBlockSafe : Obligations.EveryStepKeepsTheBlockSafe := by
  intro s t hs hstep
  exact ⟨step_preserves_safe hs hstep, fun w rest hev => step_command_not_internalFault hs hev hstep⟩

/-- Settles O3: the start state is a reset state, and after reset slot 3 has rank 3. -/
theorem resetIsSafe : Obligations.ResetIsSafe :=
  ⟨safe_resetWith _, fun p => ⟨safe_resetWith p, isVictim_resetWith p⟩⟩

end Sys2Proof.Machine

/-! PROOFS. The ranks are the recency order: the abstract list of slots, most recently used first, follows every command
(42_tlb.md R114). -/

namespace Sys2Proof.Machine

/-- The order is about the ranks alone. -/
theorem RankedInOrder.congr {order : List SlotIx} {s t : State} (hs : RankedInOrder order s)
    (h : ∀ j, (t.slot j).rank = (s.slot j).rank) : RankedInOrder order t := by
  simpa only [RankedInOrder, h] using hs

/-- The slot at place `n` of the order is the slot of rank `n` (42_tlb.md R114). -/
theorem RankedInOrder.getElem?_of_rank {order : List SlotIx} {s : State} (hs : RankedInOrder order s) {i : SlotIx}
    {r : Rank} (hrank : (s.slot i).rank = r) : order[r.toNat]? = some i := by
  obtain ⟨-, hplace⟩ := hs
  exact hrank ▸ hplace i

/-- Ranks that name the places of a list are a permutation: no place holds two slots. -/
theorem RankedInOrder.ranksPermuted {order : List SlotIx} {s : State} (hs : RankedInOrder order s) :
    RanksPermuted s := by
  refine (ranksPermuted_iff_injective s).2 fun i j hrank => Option.some.inj ?_
  exact (hs.getElem?_of_rank rfl).symm.trans (hs.getElem?_of_rank hrank.symm)

/-- Every slot is in the order. -/
theorem RankedInOrder.mem {order : List SlotIx} {s : State} (hs : RankedInOrder order s) (i : SlotIx) : i ∈ order :=
  List.mem_of_getElem? (hs.getElem?_of_rank rfl)

/-- No slot is in the order twice: four slots fill its four places. -/
theorem RankedInOrder.nodup {order : List SlotIx} {s : State} (hs : RankedInOrder order s) : order.Nodup := by
  have ⟨hlength, _⟩ := hs
  have hslots : (List.finRange 4).Subperm order :=
    List.subperm_of_subset (List.nodup_finRange 4) fun i _ => hs.mem i
  exact (hslots.perm_of_length_le (by simp [hlength])).nodup_iff.1 (List.nodup_finRange 4)

/-- To take a slot out of the order is to close the gap at the place its rank names. -/
theorem RankedInOrder.erase_eq_eraseIdx {order : List SlotIx} {s : State} (hs : RankedInOrder order s) (i : SlotIx) :
    order.erase i = order.eraseIdx (s.slot i).rank.toNat := by
  obtain ⟨hlt, hget⟩ := List.getElem?_eq_some_iff.1 (hs.getElem?_of_rank (i := i) rfl)
  refine List.erase_eq_eraseIdx_of_idxOf ?_
  rw [← hs.nodup.idxOf_getElem _ hlt, hget]

/-- A touch moves its slot to the front of the order and leaves the others in their order (42_tlb.md R114): a slot
before the touched one moves one place back, a slot after it stays at its place. -/
theorem RankedInOrder.mostRecent_of_ranksTouched {order : List SlotIx} {i : SlotIx} {s t : State}
    (hs : RankedInOrder order s) (ht : RanksTouched i s t) : RankedInOrder (mostRecent i order) t := by
  refine ⟨?length, fun j => ?place⟩
  case length =>
    have ⟨hlength, _⟩ := hs
    rw [mostRecent, List.length_cons, List.length_erase_of_mem (hs.mem i), hlength]
  case place =>
    have hj := hs.getElem?_of_rank (i := j) rfl
    rw [ht.rank_toNat, mostRecent, hs.erase_eq_eraseIdx]
    split_ifs with hji hbefore
    · rw [hji]; rfl
    · rw [List.getElem?_cons_succ, List.getElem?_eraseIdx_of_lt hbefore, hj]
    · have hne := hs.ranksPermuted.toNat_ne hji
      obtain ⟨n, hn⟩ : ∃ n, (s.slot j).rank.toNat = n + 1 := Nat.exists_eq_succ_of_ne_zero (by omega)
      rw [hn, List.getElem?_cons_succ, List.getElem?_eraseIdx_of_ge (by omega), ← hn, hj]

/-- After reset the order is the slot order (70_reset_and_hazards.md R171). -/
theorem rankedInOrder_resetWith (p : ResetParams) : RankedInOrder [0, 1, 2, 3] (State.resetWith p) := by
  simp only [RankedInOrder, State.resetWith_slot, Slot.atReset_rank]
  decide

/-- A TRANSLATE that fills brings the last slot of the order to the front, with the page in it (42_tlb.md R114). -/
theorem RankedInOrder.translate_fill {order : List SlotIx} {va : Addr} {s t : State} (hs : RankedInOrder order s)
    (h : exec (.translate va) s = .next t) (hmiss : Misses s (pageNumber va))
    (hvalid : (s.pte (pageNumber va)).valid = true) :
    ∃ v, order[3]? = some v ∧ Holds t v (pageNumber va) ∧ RankedInOrder (mostRecent v order) t := by
  obtain ⟨v, hvictim⟩ := hs.ranksPermuted.exists_isVictim
  obtain rfl := Host.Outcome.next.inj ((exec_translate_of_misses_of_isVictim hmiss hvalid hvictim).symm.trans h)
  obtain ⟨hrank, -⟩ := hvictim
  refine ⟨v, hs.getElem?_of_rank hrank, ?holds, hs.mostRecent_of_ranksTouched (ranksTouched_installSlot ..)⟩
  simp [Holds, translateFill, installSlot_slot_self]

/-- A command that neither translates, nor touches, nor installs keeps the order (42_tlb.md R114). -/
theorem RankedInOrder.exec_other {order : List SlotIx} {i : Instr} {s t : State} (hs : RankedInOrder order s)
    (h : exec i s = .next t) (htranslate : ∀ va, i ≠ .translate va) (htouch : ∀ k, i ≠ .touch k)
    (hinstall : ∀ k ppn vpn, i ≠ .install k ppn vpn) : RankedInOrder order t := by
  cases exec_slotEffect h with
  | kept hslot => exact hs.congr fun j => by rw [hslot]
  | touched k hby _ =>
    obtain hi | ⟨va, hi, -⟩ := hby
    · exact absurd hi (htouch k)
    · exact absurd hi (htranslate va)
  | installed k ppn vpn hby _ =>
    obtain hi | ⟨va, hi, -⟩ := hby
    · exact absurd hi (hinstall k ppn vpn)
    · exact absurd hi (htranslate va)

/-- VICTIM names the last slot of the order (42_tlb.md R114). -/
theorem RankedInOrder.victim {order : List SlotIx} {s t : State} (hs : RankedInOrder order s)
    (h : exec .victim s = .next t) : ∃ v, order[3]? = some v ∧ Answers t 0 false v 0 := by
  rcases exec_victim_cases h with ⟨v, ⟨hrank, -⟩, rfl⟩ | ⟨hnone, -⟩
  · exact ⟨v, hs.getElem?_of_rank hrank, answers_respond ..⟩
  · exact absurd hnone hs.ranksPermuted.not_noVictim

/-- Settles O35: a touch, alone or within an install, is a move to the front, and the victim's rank names the last
place. -/
theorem ranksAreTheRecencyOrder : Obligations.RanksAreTheRecencyOrder := by
  refine ⟨rankedInOrder_resetWith, fun order s t hs => ⟨?touch, ?install, ?hit, ?fill, ?pageFault, ?others, ?victim⟩⟩
  case touch =>
    intro i h
    obtain rfl := Host.Outcome.next.inj h
    exact hs.mostRecent_of_ranksTouched (ranksTouched_touchSlot i s)
  case install =>
    intro i ppn vpn h
    obtain rfl := Host.Outcome.next.inj h
    exact hs.mostRecent_of_ranksTouched (ranksTouched_installSlot i ppn vpn s)
  case hit =>
    intro va i h hfound
    obtain rfl := Host.Outcome.next.inj ((exec_translate_of_finds hfound).symm.trans h)
    exact hs.mostRecent_of_ranksTouched (ranksTouched_touchSlot i s)
  case fill =>
    intro va h hmiss hvalid
    exact hs.translate_fill h hmiss hvalid
  case pageFault =>
    intro va h hmiss hinvalid
    obtain rfl := Host.Outcome.next.inj ((exec_translate_of_misses_of_invalid hmiss hinvalid).symm.trans h)
    exact hs
  case others =>
    intro i h
    exact hs.exec_other h
  case victim => exact hs.victim

end Sys2Proof.Machine

/-! PROOFS. Decoding and encoding are inverse to each other, and a word moves as four bytes, lowest first
(30_encoding.md R62, R63, R71 to R74; 20_memory.md R44). -/

namespace Sys2Proof

/-- The rows of the opcode table have different opcodes (30_encoding.md R63). -/
theorem Mnemonic.eq_of_opcodeField_eq {m m' : Mnemonic} (h : opcodeField m.pattern = opcodeField m'.pattern) :
    m = m' := by
  revert h
  cases m <;> cases m' <;> decide

/-- No word is in two rows (30_encoding.md R71). -/
theorem Mnemonic.eq_of_matches {m m' : Mnemonic} {w : Word} (h : m.matches w = true) (h' : m'.matches w = true) :
    m = m' :=
  eq_of_opcodeField_eq ((opcodeField_of_matches h).symm.trans (opcodeField_of_matches h'))

/-- Every mnemonic has its row in the table (30_encoding.md R63). -/
theorem Mnemonic.mem_opcodeTable (m : Mnemonic) : m ∈ opcodeTable := by
  cases m <;> decide

/-- A word of a row decodes to what the row reads from it (30_encoding.md R71). -/
theorem decodeWord_of_matches {m : Mnemonic} {w : Word} (h : m.matches w = true) : decodeWord w = .ok (m.read w) := by
  rcases hfind : opcodeTable.find? (fun m' => m'.matches w) with _ | m'
  · exact absurd h (List.find?_eq_none.1 hfind m m.mem_opcodeTable)
  · obtain rfl := Mnemonic.eq_of_matches h (List.find?_some (p := (Mnemonic.matches · w)) hfind)
    simp only [decodeWord, hfind]

/-- What a row reads is a command of the row. -/
theorem Mnemonic.source_read (m : Mnemonic) (w : Word) : (m.read w).source.mnemonic = m := by
  cases m <;> rfl

/-- A word decodes to a command exactly when it is in the command's row and its fields are the operands (30_encoding.md
R71). -/
theorem decodeWord_eq_ok_iff {w : Word} {i : Instr} :
    decodeWord w = .ok i ↔ i.source.mnemonic.matches w = true ∧ i = i.source.mnemonic.read w := by
  constructor
  · intro h
    obtain ⟨m, hm, rfl⟩ := decodeWord_ok_cases h
    rw [Mnemonic.source_read]
    exact ⟨hm, rfl⟩
  · rintro ⟨hm, hi⟩
    rw [decodeWord_of_matches hm, ← hi]

/-- Every command's word is in its row (30_encoding.md R73). -/
theorem encode_matches (i : Instr) : i.source.mnemonic.matches (encode i) = true := by
  cases i with
  | translate va => exact Laws.EncodesInRow.translate va
  | find pn => exact Laws.EncodesInRow.find pn
  | touch slot => exact Laws.EncodesInRow.touch slot
  | victim => exact Laws.EncodesInRow.victim
  | install slot ppn vpn => exact Laws.EncodesInRow.install slot ppn vpn
  | ptlookup pn => exact Laws.EncodesInRow.ptlookup pn
  | ranks => exact Laws.EncodesInRow.ranks
  | pgnum va => exact Laws.EncodesInRow.pgnum va
  | physaddr va ppn => exact Laws.EncodesInRow.physaddr va ppn

/-- A word of a row is the row's fixed bits and, outside the mask, its own bits (30_encoding.md R62). -/
theorem Mnemonic.eq_pattern_or_of_matches {m : Mnemonic} {w : Word} (h : m.matches w = true) :
    w = m.pattern ||| (w &&& ~~~m.mask) := by
  have hrow : w &&& m.mask = m.pattern := beq_iff_eq.1 h
  rw [← hrow, ← BitVec.and_or_distrib_left, BitVec.or_not_self, BitVec.and_allOnes]

/-- The bits of a field, standing where they stood in the word. -/
def fieldMask (lo len : Nat) : Word := (BitVec.allOnes len).setWidth 32 <<< lo

/-- A field put back at its place is the word under the field's bits (30_encoding.md R62). -/
theorem extractLsb'_shiftLeft (w : Word) (lo len : Nat) :
    (w.extractLsb' lo len).setWidth 32 <<< lo = w &&& fieldMask lo len := by
  ext j hj
  by_cases hlo : j < lo
  · simp [fieldMask, hlo]
  · have hback : lo + (j - lo) = j := by omega
    simp [fieldMask, hlo, hback, BitVec.getLsbD_eq_getElem hj, Bool.and_comm]

/-- A field at bit 0 is the word under the field's bits. -/
theorem extractLsb'_zero_setWidth (w : Word) (len : Nat) :
    (w.extractLsb' 0 len).setWidth 32 = w &&& fieldMask 0 len := by
  rw [← extractLsb'_shiftLeft, BitVec.shiftLeft_zero]

/-- The slot operand as the encoder writes it is the word under bits 1:0. -/
theorem slotField_bits (w : Word) : BitVec.ofNat 32 (slotField w).val = w &&& fieldMask 0 2 :=
  (BitVec.ofNat_toNat 32 (w.extractLsb' 0 2)).trans (extractLsb'_zero_setWidth w 2)

/-- What a row reads from a word encodes to the row's fixed bits and the word's bits outside the mask: the fields cover
those bits exactly (30_encoding.md R62, R73). -/
theorem encode_read (m : Mnemonic) (w : Word) : encode (m.read w) = m.pattern ||| (w &&& ~~~m.mask) := by
  cases m with
  | victim | ranks => simp [Mnemonic.read, encode, Mnemonic.pattern, Mnemonic.mask]
  | translate | pgnum => exact congrArg (BitVec.or _) (extractLsb'_zero_setWidth w 16)
  | find | ptlookup => exact congrArg (BitVec.or _) (extractLsb'_zero_setWidth w 4)
  | touch => exact congrArg (BitVec.or _) (slotField_bits w)
  | install =>
    have formatI : ~~~Mnemonic.install.mask = fieldMask 8 4 ||| (fieldMask 4 4 ||| fieldMask 0 2) := by decide
    rw [formatI, BitVec.and_or_distrib_left, BitVec.and_or_distrib_left, ← extractLsb'_shiftLeft,
      ← extractLsb'_shiftLeft, ← slotField_bits, ← BitVec.or_assoc, ← BitVec.or_assoc]
    rfl
  | physaddr =>
    have formatA : ~~~Mnemonic.physaddr.mask = fieldMask 16 4 ||| fieldMask 0 16 := by decide
    rw [formatA, BitVec.and_or_distrib_left, ← extractLsb'_shiftLeft, ← extractLsb'_zero_setWidth,
      ← BitVec.or_assoc]
    rfl

/-- The word of a command as a number: each operand weighs what its lowest bit weighs (30_encoding.md R62, R73). -/
def Instr.tableNumber : Instr → Nat
  | .translate va => 0x10000000 + va.toNat
  | .find pn => 0x20000000 + pn.toNat
  | .touch slot => 0x30000000 + slot.val
  | .victim => 0x40000000
  | .install slot ppn vpn => 0x50000000 + vpn.toNat * 256 + ppn.toNat * 16 + slot.val
  | .ptlookup pn => 0x60000000 + pn.toNat
  | .ranks => 0x70000000
  | .pgnum va => 0x80000000 + va.toNat
  | .physaddr va ppn => 0x90000000 + ppn.toNat * 65536 + va.toNat

/-- An operand joined at bit `lo`, below all bits set so far, adds `2 ^ lo` times its value. -/
theorem or_operand_toNat {n : Nat} (x : Word) (y : BitVec n) (lo : Nat) (hfits : n + lo ≤ 32)
    (hx : 2 ^ (n + lo) ∣ x.toNat) : (x ||| y.setWidth 32 <<< lo).toNat = x.toNat + y.toNat * 2 ^ lo := by
  have hlow : y.toNat * 2 ^ lo < 2 ^ (n + lo) := by
    rw [pow_add]
    gcongr
    exact y.isLt
  have hroom : 2 ^ (n + lo) ≤ 2 ^ 32 := Nat.pow_le_pow_right (by decide) hfits
  obtain ⟨a, ha⟩ := hx
  rw [BitVec.toNat_or, BitVec.toNat_shiftLeft, BitVec.toNat_setWidth_of_le (by omega), Nat.shiftLeft_eq,
    Nat.mod_eq_of_lt (by omega), ha, Nat.two_pow_add_eq_or_of_lt hlow]

/-- An operand joined at bit 0 adds its value. -/
theorem or_low_operand_toNat {n : Nat} (x : Word) (y : BitVec n) (hfits : n ≤ 32) (hx : 2 ^ n ∣ x.toNat) :
    (x ||| y.setWidth 32).toNat = x.toNat + y.toNat := by
  simpa using or_operand_toNat x y 0 hfits hx

/-- A slot joined at bit 0 adds its index. -/
theorem or_slot_toNat (x : Word) (slot : SlotIx) (hx : 2 ^ 2 ∣ x.toNat) :
    (x ||| BitVec.ofNat 32 slot.val).toNat = x.toNat + slot.val :=
  (congrArg (fun b => (x ||| b).toNat) (BitVec.ofNat_toNat 32 (BitVec.ofFin slot : BitVec 2))).trans
    (or_low_operand_toNat x _ (by decide) hx)

/-- The encoder's word is the table's number (30_encoding.md R73). -/
theorem encode_toNat (i : Instr) : (encode i).toNat = i.tableNumber := by
  cases i with
  | victim | ranks => rfl
  | translate va | pgnum va => exact or_low_operand_toNat _ va (by decide) (by decide)
  | find pn | ptlookup pn => exact or_low_operand_toNat _ pn (by decide) (by decide)
  | touch slot => exact or_slot_toNat _ slot (by decide)
  | install slot ppn vpn =>
    have hvpn := or_operand_toNat Mnemonic.install.pattern vpn 8 (by decide) (by decide)
    have hppn := or_operand_toNat (Mnemonic.install.pattern ||| vpn.setWidth 32 <<< 8) ppn 4 (by decide)
      (by rw [hvpn, Mnemonic.pattern]; simp; omega)
    have hslot := or_slot_toNat (Mnemonic.install.pattern ||| vpn.setWidth 32 <<< 8 ||| ppn.setWidth 32 <<< 4) slot
      (by rw [hppn, hvpn, Mnemonic.pattern]; simp; omega)
    rw [hppn, hvpn] at hslot
    exact hslot
  | physaddr va ppn =>
    have hppn := or_operand_toNat Mnemonic.physaddr.pattern ppn 16 (by decide) (by decide)
    have hva := or_low_operand_toNat (Mnemonic.physaddr.pattern ||| ppn.setWidth 32 <<< 16) va (by decide)
      (by rw [hppn, Mnemonic.pattern]; simp; omega)
    rw [hppn] at hva
    exact hva

/-- A field of a command's word as a number. -/
theorem encode_field_toNat (i : Instr) (lo len : Nat) :
    ((encode i).extractLsb' lo len).toNat = i.tableNumber / 2 ^ lo % 2 ^ len := by
  rw [BitVec.extractLsb'_toNat, encode_toNat, Nat.shiftRight_eq_div_pow]

/-- A field whose number is the operand's is the operand. -/
theorem encode_field_eq {i : Instr} {lo len : Nat} {x : BitVec len} (h : i.tableNumber / 2 ^ lo % 2 ^ len = x.toNat) :
    (encode i).extractLsb' lo len = x :=
  BitVec.eq_of_toNat_eq ((encode_field_toNat i lo len).trans h)

/-- The slot field of a command's word is the slot its number ends in. -/
theorem slotField_encode_eq {i : Instr} {slot : SlotIx} (h : i.tableNumber % 4 = slot.val) :
    slotField (encode i) = slot :=
  Fin.ext ((encode_field_toNat i 0 2).trans (by rw [pow_zero, Nat.div_one]; exact h))

/-- What a row reads back from the word of one of its commands is that command: every operand stands in its own field
(30_encoding.md R62, R73). -/
theorem read_encode (i : Instr) : i.source.mnemonic.read (encode i) = i := by
  cases i with
  | victim | ranks => rfl
  | translate va => exact congrArg Instr.translate (encode_field_eq (by rw [Instr.tableNumber]; omega))
  | pgnum va => exact congrArg Instr.pgnum (encode_field_eq (by rw [Instr.tableNumber]; omega))
  | find pn => exact congrArg Instr.find (encode_field_eq (by rw [Instr.tableNumber]; omega))
  | ptlookup pn => exact congrArg Instr.ptlookup (encode_field_eq (by rw [Instr.tableNumber]; omega))
  | touch slot => exact congrArg Instr.touch (slotField_encode_eq (by rw [Instr.tableNumber]; omega))
  | install slot ppn vpn =>
    exact congr (congrArg₂ Instr.install (slotField_encode_eq (by rw [Instr.tableNumber]; omega))
      (encode_field_eq (by rw [Instr.tableNumber]; omega))) (encode_field_eq (by rw [Instr.tableNumber]; omega))
  | physaddr va ppn =>
    exact congrArg₂ Instr.physaddr (encode_field_eq (by rw [Instr.tableNumber]; omega))
      (encode_field_eq (by rw [Instr.tableNumber]; omega))

/-- The word of a command decodes to the command (30_encoding.md R71, R73). -/
theorem decodeWord_encode (i : Instr) : decodeWord (encode i) = .ok i :=
  decodeWord_eq_ok_iff.2 ⟨encode_matches i, (read_encode i).symm⟩

/-- The bytes of a word, each with its weight, give the word back (20_memory.md R44). -/
theorem bytesWord_toNat (b0 b1 b2 b3 : Byte) :
    (bytesWord b0 b1 b2 b3).toNat = b0.toNat + b1.toNat * 256 + b2.toNat * 65536 + b3.toNat * 16777216 := by
  refine (Machine.append_toNat (b3 ++ b2 ++ b1) b0).trans ?_
  rw [Machine.append_toNat, Machine.append_toNat]
  omega

/-- A word as the weighted sum of its four bytes, lowest byte first (20_memory.md R44). -/
theorem toNat_eq_bytes (w : Word) :
    w.toNat = (w.extractLsb' 0 8).toNat + (w.extractLsb' 8 8).toNat * 256 + (w.extractLsb' 16 8).toNat * 65536 +
      (w.extractLsb' 24 8).toNat * 16777216 := by
  simp only [BitVec.extractLsb'_toNat, Nat.shiftRight_eq_div_pow]
  omega

/-- Joining the bytes of a word gives the word back (20_memory.md R44). -/
theorem bytesWord_wordBytes (w : Word) :
    bytesWord (w.extractLsb' 0 8) (w.extractLsb' 8 8) (w.extractLsb' 16 8) (w.extractLsb' 24 8) = w :=
  BitVec.eq_of_toNat_eq ((bytesWord_toNat ..).trans (toNat_eq_bytes w).symm)

/-- A stream that begins with the bytes of a command's word decodes to the command and leaves the rest (30_encoding.md
R61). -/
theorem decodeBytes_wordBytes_append {w : Word} {i : Instr} (h : decodeWord w = .ok i) (rest : List Byte) :
    decodeBytes (wordBytes w ++ rest) = .ok (i, rest) := by
  simp only [wordBytes, List.cons_append, List.nil_append, decodeBytes, bytesWord_wordBytes, h]

/-- Settles O11: the word is in the command's row, and each operand stands in its own field. -/
theorem decodeGivesBackEveryEncodedCommand : Obligations.DecodeGivesBackEveryEncodedCommand :=
  fun i => ⟨decodeWord_encode i, decodeBytes_wordBytes_append (decodeWord_encode i)⟩

/-- Settles O12: a word that decodes is its row's fixed bits and its fields, and the encoder joins the same. -/
theorem decodingIsInjective : Obligations.DecodingIsInjective := by
  intro w i h
  obtain ⟨m, hm, rfl⟩ := decodeWord_ok_cases h
  rw [encode_read, ← Mnemonic.eq_pattern_or_of_matches hm]

/-- Settles O7: the four bytes, their weights, and the joining. -/
theorem wordsMoveLittleEndian : Obligations.WordsMoveLittleEndian :=
  fun w => ⟨_, _, _, _, rfl, bytesWord_wordBytes w, toNat_eq_bytes w⟩

/-- Settles O15: each sample word is the word of its command, which decodes back to it. -/
theorem sampleWordsDecode : Obligations.SampleWordsDecode :=
  ⟨decodeWord_encode (.translate 0x9042), decodeWord_encode (.find 0xC), decodeWord_encode (.touch 2),
    decodeWord_encode .victim, decodeWord_encode (.install 3 0xA 0xC), decodeWord_encode (.ptlookup 9),
    decodeWord_encode .ranks, decodeWord_encode (.pgnum 0x9042), decodeWord_encode (.physaddr 0x9042 2)⟩

/-- A word decodes to a command exactly when its bits under the row's mask are the row's pattern and its fields are the
operands, as `operands` says (30_encoding.md R71). -/
theorem decodeWord_row {w : Word} {i : Instr} {operands : Prop} (hfields : i = i.source.mnemonic.read w ↔ operands) :
    decodeWord w = .ok i ↔ w &&& i.source.mnemonic.mask = i.source.mnemonic.pattern ∧ operands :=
  decodeWord_eq_ok_iff.trans (and_congr beq_iff_eq hfields)

/-- The row of a command without operands. -/
theorem decodeWord_row_of_no_operands {w : Word} {i : Instr} (hread : i = i.source.mnemonic.read w) :
    decodeWord w = .ok i ↔ w &&& i.source.mnemonic.mask = i.source.mnemonic.pattern :=
  decodeWord_eq_ok_iff.trans ((and_iff_left hread).trans beq_iff_eq)

/-- Settles O13: each row's test and fields, and the step refuses what is in no row. -/
theorem wordsDecodeByMaskAndMatch : Obligations.WordsDecodeByMaskAndMatch := by
  intro w
  refine ⟨fun va => decodeWord_row ?translate, fun pn => decodeWord_row ?find, fun slot => decodeWord_row ?touch,
    decodeWord_row_of_no_operands rfl, fun slot ppn vpn => decodeWord_row ?install,
    fun pn => decodeWord_row ?ptlookup, decodeWord_row_of_no_operands rfl, fun va => decodeWord_row ?pgnum,
    fun va ppn => decodeWord_row ?physaddr,
    fun hbad s rest hev hrun => Machine.step_refuses_undecodable hev hrun hbad⟩
  case translate => exact iff_of_eq (Instr.translate.injEq ..)
  case find => exact iff_of_eq (Instr.find.injEq ..)
  case touch => exact (iff_of_eq (Instr.touch.injEq ..)).trans Fin.ext_iff
  case install => exact (iff_of_eq (Instr.install.injEq ..)).trans (and_congr_left' Fin.ext_iff)
  case ptlookup => exact iff_of_eq (Instr.ptlookup.injEq ..)
  case pgnum => exact iff_of_eq (Instr.pgnum.injEq ..)
  case physaddr => exact iff_of_eq (Instr.physaddr.injEq ..)

end Sys2Proof

/-! PROOFS. Every command and every step answers, and what holds after reset and is kept by every step holds along every
run (30_encoding.md R72; 42_tlb.md R109). -/

namespace Sys2Proof.Machine

/-- Every command completes (30_encoding.md R72). -/
theorem exec_next (i : Instr) (s : State) : ∃ t, exec i s = .next t := by
  cases i with
  | translate va => exact exec_translate_next va s
  | find pn =>
    rcases finds_or_misses s pn with ⟨i, hfound⟩ | hmiss
    · exact ⟨_, exec_find_of_finds hfound⟩
    · exact ⟨_, exec_find_of_misses hmiss⟩
  | victim =>
    rcases isVictim_or_noVictim s with ⟨v, hvictim⟩ | hnone
    · exact ⟨_, exec_victim_of_isVictim hvictim⟩
    · exact ⟨_, exec_victim_of_noVictim hnone⟩
  | touch k | install k ppn vpn | ptlookup pn | ranks | pgnum va | physaddr va ppn => exact ⟨_, rfl⟩

/-- Every command answers one response of the stated layout (30_encoding.md R65). -/
theorem exec_answers {i : Instr} {s t : State} (h : exec i s = .next t) :
    ∃ status hit slot data, Answers t status hit slot data := by
  cases i with
  | translate va =>
    rcases exec_translate_cases h with ⟨k, -, rfl⟩ | ⟨-, -, rfl⟩ | ⟨v, -, -, -, rfl⟩ | ⟨-, -, -, rfl⟩
    · exact ⟨_, _, _, _, answers_translateHit va k s⟩
    · exact ⟨_, _, _, _, answers_pageFault va s⟩
    · exact ⟨_, _, _, _, answers_translateFill va _ v s⟩
    · exact ⟨_, _, _, _, answers_internalConsistency s⟩
  | find pn => rcases exec_find_cases h with ⟨k, -, rfl⟩ | ⟨-, rfl⟩ <;> exact ⟨_, _, _, _, answers_respond ..⟩
  | victim =>
    rcases exec_victim_cases h with ⟨v, -, rfl⟩ | ⟨-, rfl⟩
    · exact ⟨_, _, _, _, answers_respond ..⟩
    · exact ⟨_, _, _, _, answers_internalConsistency s⟩
  | touch k | install k ppn vpn | ptlookup pn | ranks | pgnum va | physaddr va ppn =>
    obtain rfl := Host.Outcome.next.inj h
    exact ⟨_, _, _, _, answers_respond ..⟩

/-- A step on a word that decodes, while the block is not halted, is the command (30_encoding.md R72). -/
theorem step_of_decodes {s : State} {w : Word} {rest : List HostEvent} {i : Instr} (hev : s.events = .command w :: rest)
    (hrun : s.fatal = false) (hdec : decodeWord w = .ok i) : step s = exec i (takeEvents rest s) := by
  simp [step_cons hev, acceptEvent, acceptCommand, hrun, hdec]

/-- A step on a word that does not decode, while the block is not halted, refuses it (60_exceptions.md R152). -/
theorem step_of_not_decodes {s : State} {w : Word} {rest : List HostEvent} {e : DecodeError}
    (hev : s.events = .command w :: rest) (hrun : s.fatal = false) (hdec : decodeWord w = .error e) :
    step s = .next (takeFault .illegalCommand (takeEvents rest s)) := by
  simp [step_cons hev, acceptEvent, acceptCommand, hrun, hdec]

/-- A step on a word completes, answers once, and takes nothing from the host but the word (30_encoding.md R72). -/
theorem step_command_answers {s : State} {w : Word} {rest : List HostEvent} (hev : s.events = .command w :: rest) :
    ∃ t status hit slot data, step s = .next t ∧ Answers t status hit slot data ∧ t.events = rest ∧ t.pt = s.pt := by
  cases hfatal : s.fatal with
  | true => exact ⟨_, _, _, _, _, step_of_halted hev hfatal, answers_respond .internalConsistencyFault .., rfl, rfl⟩
  | false =>
    cases hdec : decodeWord w with
    | error e => exact ⟨_, _, _, _, _, step_of_not_decodes hev hfatal hdec, answers_illegalCommand _, rfl, rfl⟩
    | ok i =>
      obtain ⟨t, hexec⟩ := exec_next i (takeEvents rest s)
      obtain ⟨status, hit, slot, data, hanswers⟩ := exec_answers hexec
      obtain ⟨hpt, hevents⟩ := exec_keeps_pt_and_events hexec
      exact ⟨t, status, hit, slot, data, (step_of_decodes hev hfatal hdec).trans hexec, hanswers, hevents, hpt⟩

/-- Every state has a next state (30_encoding.md R72; log entries 2 and 8). -/
theorem step_next (s : State) : ∃ t, step s = .next t := by
  rcases hev : s.events with _ | ⟨⟨w⟩ | ⟨p⟩, rest⟩
  · exact ⟨_, step_nil hev⟩
  · obtain ⟨t, _, _, _, _, hstep, -⟩ := step_command_answers hev
    exact ⟨t, hstep⟩
  · exact ⟨_, step_of_reset hev⟩

/-- What every step keeps, a run of any length completes with. -/
theorem run_preserves {P : State → Prop} (hkeep : ∀ s t, P s → step s = .next t → P t) (k : Nat) :
    ∀ s : State, P s → ∃ t : State, Host.Core.run Sys2Proof.core k s = .next t ∧ P t := by
  induction k with
  | zero => exact fun s hs => ⟨s, rfl, hs⟩
  | succ k ih =>
    intro s hs
    obtain ⟨t, hstep⟩ := step_next s
    obtain ⟨u, hrun, hu⟩ := ih t (hkeep s t hs hstep)
    have hcore : Sys2Proof.core.step s = .next t := hstep
    exact ⟨u, by simp only [Host.Core.run, hcore, hrun], hu⟩

/-- A safe block whose port does not show the internal fault: the invariant of a run from reset (42_tlb.md R109). -/
def FaultFree (s : State) : Prop := Safe s ∧ ¬ StatusIs s 2

/-- A port that shows no response shows no status. -/
theorem not_statusIs_of_response_none {s : State} (h : s.response = none) (status : BitVec 2) :
    ¬ StatusIs s status := by
  rintro ⟨w, hw, -⟩
  cases h.symm.trans hw

/-- Every step keeps the block safe and the internal fault off the port: a word is not answered with it, a reset clears
the port, and an idle step holds it. -/
theorem step_preserves_faultFree (s t : State) (hs : FaultFree s) (hstep : step s = .next t) : FaultFree t := by
  obtain ⟨hsafe, hport⟩ := hs
  refine ⟨step_preserves_safe hsafe hstep, ?_⟩
  rcases hev : s.events with _ | ⟨⟨w⟩ | ⟨p⟩, rest⟩
  · obtain rfl := Host.Outcome.next.inj ((step_nil hev).symm.trans hstep)
    exact hport
  · exact step_command_not_internalFault hsafe hev hstep
  · obtain rfl := Host.Outcome.next.inj ((step_of_reset hev).symm.trans hstep)
    exact not_statusIs_of_response_none rfl 2

/-- Settles O31: a run from reset keeps `FaultFree`, and permuted ranks give rank 3 to one slot. -/
theorem internalFaultIsUnreachable : Obligations.InternalFaultIsUnreachable := by
  intro p events k
  have hstart : FaultFree { State.resetWith p with events := events } :=
    ⟨safe_resetWith p, not_statusIs_of_response_none rfl 2⟩
  obtain ⟨t, hrun, ⟨hperm, hfatal⟩, hport⟩ := run_preserves step_preserves_faultFree k _ hstart
  exact ⟨t, hrun, hperm 3, hfatal, hport⟩

/-- Settles O18: a step is idle, a reset, or answers the word presented. -/
theorem everyWordGetsOneResponse : Obligations.EveryWordGetsOneResponse :=
  ⟨step_next, fun _ _ _ => step_command_answers⟩

/-- Settles O17: the step takes the word and runs the command. -/
theorem stepRunsTheDecodedCommand : Obligations.StepRunsTheDecodedCommand :=
  fun _ _ _ _ => step_of_decodes

/-- Settles O48: with nothing presented the step is idle. -/
theorem idleBlockHoldsItsState : Obligations.IdleBlockHoldsItsState :=
  fun _ => step_nil

end Sys2Proof.Machine

/-! PROOFS. Invariants and frames of a step beyond the ranks: what sets `fatal`, what empties a slot, coherence, and
Occupied slots ranked below Empty ones (10_state.md R23, R30; 20_memory.md R53; 42_tlb.md R110). -/

namespace Sys2Proof.Machine

/-- Settles O45: of the steps only an executed command sets `fatal`, and only where it takes the internal fault. -/
theorem fatalIsSetOnlyByAMissingVictim : Obligations.FatalIsSetOnlyByAMissingVictim := by
  intro s t hrun hstep hset
  rcases step_storage_cases hstep with ⟨-, -, hfatal⟩ | ⟨p, rest, -, rfl⟩ | ⟨w, rest, i, hev, -, hdec, hexec⟩
  · simp [hfatal, hrun] at hset
  · simp at hset
  · rcases exec_fatal_cases hexec with hfatal | ⟨hnone, -, rfl | ⟨va, rfl, hmiss, hvalid⟩⟩
    · simp [hfatal, hrun] at hset
    · exact ⟨hnone, w, rest, hev, .inl hdec⟩
    · exact ⟨hnone, w, rest, hev, .inr ⟨va, hdec, hmiss, hvalid⟩⟩

/-- No command empties a slot (10_state.md R23). -/
theorem exec_keeps_valid {i : Instr} {s t : State} {j : SlotIx} (h : exec i s = .next t)
    (hvalid : (s.slot j).valid = true) : (t.slot j).valid = true := by
  cases exec_slotEffect h with
  | kept hslot => rw [hslot, hvalid]
  | touched k _ hslot => rw [hslot, touchSlot_slot, hvalid]
  | installed k ppn vpn _ hslot =>
    rw [hslot]
    by_cases hjk : j = k
    · rw [hjk, installSlot_slot_self]
    · rw [installSlot_slot_of_ne hjk, hvalid]

/-- Settles O6: a step that is no reset holds the slots or executes a command, which empties none. -/
theorem onlyResetEmptiesASlot : Obligations.OnlyResetEmptiesASlot := by
  intro s t j hstep hvalid hempty
  rcases step_storage_cases hstep with hsame | ⟨p, rest, hev, -⟩ | ⟨w, rest, i, -, -, -, hexec⟩
  · simp [hsame.slot_eq, hvalid] at hempty
  · exact ⟨p, rest, hev⟩
  · simp [exec_keeps_valid hexec hvalid] at hempty

/-- What coherence asks of one slot (20_memory.md R53). -/
def SlotCoherent (s : State) (sl : Slot) : Prop :=
  sl.valid = true → (sl.vpn = 0 ∧ sl.ppn = 0) ∨ ((s.pte sl.vpn).valid = true ∧ (s.pte sl.vpn).ppn = sl.ppn)

/-- Coherence asks it of every slot. -/
theorem coherent_iff (s : State) : Coherent s ↔ ∀ j, SlotCoherent s (s.slot j) := Iff.rfl

/-- Coherence of a slot depends on the page table alone, not on the rest of the state. -/
theorem SlotCoherent.congr {s t : State} {sl : Slot} (h : SlotCoherent s sl) (hpt : t.pt = s.pt) :
    SlotCoherent t sl := by
  simpa only [SlotCoherent, (State.pt_eq_iff s t).1 hpt] using h

/-- A command that is no INSTALL keeps coherence: a fill takes the mapping it installs from the page table
(20_memory.md R53). -/
theorem exec_preserves_coherent {i : Instr} {s t : State} (hs : Coherent s)
    (hinstall : ∀ slot ppn vpn, i ≠ .install slot ppn vpn) (h : exec i s = .next t) : Coherent t := by
  obtain ⟨hpt, -⟩ := exec_keeps_pt_and_events h
  rw [coherent_iff] at hs ⊢
  refine fun j => SlotCoherent.congr ?_ hpt
  cases exec_slotEffect h with
  | kept hslot => exact hslot j ▸ hs j
  | touched k _ hslot =>
    rw [hslot, touchSlot_slot]
    exact hs j
  | installed k ppn vpn hby hslot =>
    obtain hi | ⟨va, -, -, -, hvalid, hppn, -⟩ := hby
    · exact absurd hi (hinstall k ppn vpn)
    rw [hslot]
    by_cases hjk : j = k
    · rw [hjk, installSlot_slot_self]
      exact fun _ => .inr ⟨hvalid, hppn.symm⟩
    · rw [installSlot_slot_of_ne hjk]
      exact hs j

/-- Settles O9: reset leaves only the contents 0 -> 0, and no command but INSTALL breaks coherence. -/
theorem stepsButInstallKeepCoherence : Obligations.StepsButInstallKeepCoherence := by
  intro s t hs hnot hstep
  rcases step_storage_cases hstep with hsame | ⟨p, rest, -, rfl⟩ | ⟨w, rest, i, hev, -, hdec, hexec⟩
  · have ⟨_, hpt, _⟩ := hsame
    rw [coherent_iff]
    exact fun j => hsame.slot_eq j ▸ SlotCoherent.congr (hs j) hpt
  · exact fun j _ => .inl (by simp)
  · refine exec_preserves_coherent (s := takeEvents rest s) hs (fun slot ppn vpn hi => ?_) hexec
    exact hnot w rest slot ppn vpn hev (hi ▸ hdec)

/-- A touch of a slot that ends Occupied keeps Occupied slots ranked below Empty ones: the touched slot goes to the
front, and the others keep their order (42_tlb.md R110). -/
theorem OccupiedBelowEmpty.of_ranksTouched {k : SlotIx} {s t : State} (hs : OccupiedBelowEmpty s)
    (hperm : RanksPermuted s) (ht : RanksTouched k s t) (hk : (t.slot k).valid = true)
    (hothers : ∀ j, j ≠ k → (t.slot j).valid = (s.slot j).valid) : OccupiedBelowEmpty t := by
  intro i j hi hj
  have hjk : j ≠ k := fun h => by simp [h, hk] at hj
  by_cases hik : i = k
  · have ⟨hfront, _⟩ := ht
    rw [BitVec.lt_def, hik, hfront]
    exact ht.rank_pos hperm hjk
  · exact (ht.lt_iff hperm hik hjk).2 (hs i j (hothers i hik ▸ hi) (hothers j hjk ▸ hj))

/-- A command that touches no Empty slot keeps Occupied slots ranked below Empty ones (42_tlb.md R110). -/
theorem exec_preserves_occupiedBelowEmpty {i : Instr} {s t : State} (hs : OccupiedBelowEmpty s)
    (hperm : RanksPermuted s) (htouch : ∀ k, i = .touch k → (s.slot k).valid = true) (h : exec i s = .next t) :
    OccupiedBelowEmpty t := by
  cases exec_slotEffect h with
  | kept hslot => simpa only [OccupiedBelowEmpty, hslot] using hs
  | touched k hby hslot =>
    have hk : (s.slot k).valid = true := by
      obtain hi | ⟨va, -, ⟨hvalid, -⟩, -⟩ := hby
      · exact htouch k hi
      · exact hvalid
    have hkept : OccupiedBelowEmpty (touchSlot k s) :=
      hs.of_ranksTouched hperm (ranksTouched_touchSlot k s) (by simp [hk]) fun j _ => by simp
    simpa only [OccupiedBelowEmpty, hslot] using hkept
  | installed k ppn vpn _ hslot =>
    have hkept : OccupiedBelowEmpty (installSlot k ppn vpn s) :=
      hs.of_ranksTouched hperm (ranksTouched_installSlot k ppn vpn s) (by rw [installSlot_slot_self])
        fun j hjk => by rw [installSlot_slot_of_ne hjk]
    simpa only [OccupiedBelowEmpty, hslot] using hkept

/-- After reset no slot is Occupied beside an Empty one: the style makes all four alike (70_reset_and_hazards.md
R171). -/
theorem occupiedBelowEmpty_resetWith (p : ResetParams) : OccupiedBelowEmpty (State.resetWith p) := by
  intro i j hi hj
  simp only [State.resetWith_slot, Slot.atReset_valid] at hi hj
  exact absurd (hi.symm.trans hj) (by decide)

/-- Settles O32: resets of either style have it, and a step that touches no Empty slot keeps it. -/
theorem occupiedSlotsStayBelowEmptyOnes : Obligations.OccupiedSlotsStayBelowEmptyOnes := by
  refine ⟨fun p _ => occupiedBelowEmpty_resetWith p, fun s t hs hperm htouch hstep => ?_⟩
  rcases step_storage_cases hstep with hsame | ⟨p, rest, -, rfl⟩ | ⟨w, rest, i, hev, -, hdec, hexec⟩
  · simpa only [OccupiedBelowEmpty, hsame.slot_eq] using hs
  · exact occupiedBelowEmpty_resetWith p
  · refine exec_preserves_occupiedBelowEmpty (s := takeEvents rest s) hs hperm (fun k hi => ?_) hexec
    exact htouch w rest k hev (hi ▸ hdec)

/-- While Occupied slots rank below Empty ones and a slot is Empty, the slot of rank 3 is Empty (42_tlb.md R110). -/
theorem OccupiedBelowEmpty.victim_empty {s : State} (hs : OccupiedBelowEmpty s) {v i : SlotIx} (hv : IsVictim s v)
    (hi : (s.slot i).valid = false) : (s.slot v).valid = false := by
  obtain ⟨hrank, -⟩ := hv
  by_contra hoccupied
  have hlt := BitVec.lt_def.1 (hs v i (by simpa using hoccupied) hi)
  rw [hrank] at hlt
  exact absurd (s.slot i).rank.isLt (by simp at hlt; omega)

/-- Settles O33: the fill takes the slot of rank 3, which is Empty. -/
theorem missFillsAnEmptySlotFirst : Obligations.MissFillsAnEmptySlotFirst := by
  rintro s va t hs hperm ⟨i, hi⟩ hexec hmiss hvalid
  obtain ⟨v, hvictim⟩ := hperm.exists_isVictim
  obtain rfl := Host.Outcome.next.inj ((exec_translate_of_misses_of_isVictim hmiss hvalid hvictim).symm.trans hexec)
  refine ⟨v, hs.victim_empty hvictim hi, ?highest, ?holds, ?others⟩
  case highest =>
    intro j
    obtain ⟨hrank, -⟩ := hvictim
    rw [hrank, BitVec.le_def]
    exact Nat.le_of_lt_succ (s.slot j).rank.isLt
  case holds => simp [Holds, translateFill, installSlot_slot_self, pageNumber]
  case others =>
    intro j hj
    simp [translateFill, installSlot_slot_of_ne hj]

end Sys2Proof.Machine

/-! PROOFS. A command run again: touching the front slot and installing what is installed change nothing, so every
command is idempotent in state (20_memory.md R47; 42_tlb.md R106). -/

namespace Sys2Proof.Machine

/-- Touching a slot of rank 0 changes nothing: no rank is below 0 (42_tlb.md R106). -/
theorem touchSlot_of_rank_zero {i : SlotIx} {s : State} (hrank : (s.slot i).rank = 0) : touchSlot i s = s := by
  have hslots : (touchSlot i s).slots = s.slots := by
    refine (State.slots_eq_iff s _).2 fun j => ?_
    rw [touchSlot_slot, hrank]
    by_cases hji : j = i
    · rw [hji, rerank, if_pos rfl, ← hrank]
    · rw [rerank_of_not_lt hji (by simp)]
  exact State.ext hslots rfl rfl rfl rfl

/-- Installing the mapping that the front slot holds changes nothing. -/
theorem installSlot_of_installed {i : SlotIx} {ppn vpn : PageNo} {s : State}
    (hslot : s.slot i = { valid := true, rank := 0, vpn := vpn, ppn := ppn }) : installSlot i ppn vpn s = s := by
  have hslots : (installSlot i ppn vpn s).slots = s.slots := by
    refine (State.slots_eq_iff s _).2 fun j => ?_
    by_cases hji : j = i
    · rw [hji, installSlot_slot_self, hslot]
    · rw [installSlot_slot_of_ne hji, rerank_of_not_lt hji (by simp [hslot])]
  exact State.ext hslots rfl rfl rfl rfl

/-- A touched slot is at the front (42_tlb.md R106). -/
theorem touchSlot_rank_self (i : SlotIx) (s : State) : ((touchSlot i s).slot i).rank = 0 := by
  have ⟨hfront, _⟩ := ranksTouched_touchSlot i s
  exact hfront

/-- TOUCH of the slot that was just touched gives the very same state (42_tlb.md R106). -/
theorem exec_touch_again (i : SlotIx) (s : State) :
    exec (.touch i) (respond .ok false i 0 (touchSlot i s)) = .next (respond .ok false i 0 (touchSlot i s)) := by
  rw [exec_touch_eq, touchSlot_of_rank_zero (s := respond .ok false i 0 (touchSlot i s)) (touchSlot_rank_self i s)]
  rfl

/-- INSTALL of what was just installed gives the very same state (20_memory.md R47). -/
theorem exec_install_again (i : SlotIx) (ppn vpn : PageNo) (s : State) :
    exec (.install i ppn vpn) (respond .ok false i 0 (installSlot i ppn vpn s)) =
      .next (respond .ok false i 0 (installSlot i ppn vpn s)) := by
  rw [exec_install_eq, installSlot_of_installed (s := respond .ok false i 0 (installSlot i ppn vpn s))
    (installSlot_slot_self i ppn vpn s)]
  rfl

/-- A command that is no TRANSLATE, run again, gives the very same state, response included (20_memory.md R47). -/
theorem exec_again {i : Instr} {s t : State} (h : exec i s = .next t) (hne : ∀ va, i ≠ .translate va) :
    exec i t = .next t := by
  cases i with
  | translate va => exact absurd rfl (hne va)
  | find pn =>
    rcases exec_find_cases h with ⟨k, hfound, rfl⟩ | ⟨hmiss, rfl⟩
    · exact exec_find_of_finds hfound
    · exact exec_find_of_misses hmiss
  | victim =>
    rcases exec_victim_cases h with ⟨v, hvictim, rfl⟩ | ⟨hnone, rfl⟩
    · exact exec_victim_of_isVictim hvictim
    · exact exec_victim_of_noVictim hnone
  | touch k =>
    obtain rfl := Host.Outcome.next.inj h
    exact exec_touch_again k s
  | install k ppn vpn =>
    obtain rfl := Host.Outcome.next.inj h
    exact exec_install_again k ppn vpn s
  | ptlookup pn | ranks | pgnum va | physaddr va ppn =>
    obtain rfl := Host.Outcome.next.inj h
    rfl

/-- Settles O28: the ranks after TOUCH are those of a touch. -/
theorem touchKeepsPermutationAndOrder : Obligations.TouchKeepsPermutationAndOrder := by
  intro i s t hs h
  obtain rfl := Host.Outcome.next.inj h
  have htouched : RanksTouched i s (respond .ok false i 0 (touchSlot i s)) := ranksTouched_touchSlot i s
  refine ⟨htouched.ranksPermuted hs, fun j k hj hk => htouched.lt_iff hs hj hk, fun hrank j hj => ?last⟩
  have hne := hs.toNat_ne hj
  have hlt := (s.slot j).rank.isLt
  rw [hrank] at hne
  rw [htouched.rank_toNat, if_neg hj, if_pos]
  rw [hrank]
  simp at hne ⊢
  omega

/-- Settles O29: the touched slot is at the front, and TOUCH run again gives its own state. -/
theorem touchIsIdempotent : Obligations.TouchIsIdempotent := by
  intro i s t u h hagain
  obtain rfl := Host.Outcome.next.inj h
  exact ⟨touchSlot_rank_self i s, (Host.Outcome.next.inj ((exec_touch_again i s).symm.trans hagain)).symm⟩

end Sys2Proof.Machine

/-! PROOFS. TRANSLATE: which slots hold the page after it, that it hits when it is repeated, that only the page number
chooses its path, and that with a coherent TLB it answers as an uncached walk (43_translator.md R131 to R135;
20_memory.md R49, R53). -/

namespace Sys2Proof.Machine

/-- TRANSLATE on a miss with a valid entry takes the internal fault where no slot has rank 3 (60_exceptions.md R151). -/
theorem exec_translate_of_misses_of_noVictim {va : Addr} {s : State} (hmiss : Misses s (pageNumber va))
    (hvalid : (s.pte (pageNumber va)).valid = true) (hnone : NoVictim s) :
    exec (.translate va) s = .next (takeFault .internalConsistency s) := by
  simp only [exec, execTranslate, (findSlot_eq_none_iff _ s).2 hmiss, translateMiss, ptLookup, if_pos hvalid,
    (victimSlot_eq_none_iff s).2 hnone]

/-- A touch moves no mapping (42_tlb.md R103). -/
theorem holds_touchSlot_iff {i j : SlotIx} {s : State} {n : PageNo} : Holds (touchSlot i s) j n ↔ Holds s j n := by
  simp only [Holds, touchSlot_slot]

/-- A touch leaves what a lookup finds. -/
theorem finds_touchSlot_iff {i j : SlotIx} {s : State} {n : PageNo} : Finds (touchSlot i s) n j ↔ Finds s n j := by
  simp only [Finds, holds_touchSlot_iff]

/-- The installed slot holds the page installed (42_tlb.md R111). -/
theorem holds_installSlot_self (i : SlotIx) (ppn vpn : PageNo) (s : State) : Holds (installSlot i ppn vpn s) i vpn := by
  rw [Holds, installSlot_slot_self]
  exact ⟨rfl, rfl⟩

/-- Another slot holds after an install what it held before (42_tlb.md R111). -/
theorem holds_installSlot_of_ne {i j : SlotIx} (hne : j ≠ i) {ppn vpn : PageNo} {s : State} {n : PageNo} :
    Holds (installSlot i ppn vpn s) j n ↔ Holds s j n := by
  rw [Holds, installSlot_slot_of_ne hne]
  exact Iff.rfl

/-- After the fill of a missed page the filled slot alone holds it (43_translator.md R135). -/
theorem holds_installSlot_of_misses {i j : SlotIx} {ppn vpn : PageNo} {s : State} (hmiss : Misses s vpn) :
    Holds (installSlot i ppn vpn s) j vpn ↔ j = i := by
  constructor
  · intro hholds
    by_contra hne
    exact hmiss j ((holds_installSlot_of_ne hne).1 hholds)
  · rintro rfl
    exact holds_installSlot_self j ppn vpn s

/-- After the fill of a missed page a lookup finds the filled slot (43_translator.md R134(c)). -/
theorem finds_installSlot_of_misses {i : SlotIx} {ppn vpn : PageNo} {s : State} (hmiss : Misses s vpn) :
    Finds (installSlot i ppn vpn s) vpn i :=
  ⟨holds_installSlot_self i ppn vpn s, fun _ hlt hholds => hlt.ne ((holds_installSlot_of_misses hmiss).1 hholds)⟩

/-- Where two slots hold one page after the fill of a missed page, the filled slot is neither of them (43_translator.md
R135). -/
theorem ne_of_holds_installSlot_twice {i j k : SlotIx} {ppn vpn n : PageNo} {s : State} (hmiss : Misses s vpn)
    (hi : Holds (installSlot k ppn vpn s) i n) (hj : Holds (installSlot k ppn vpn s) j n) (hne : i ≠ j) : i ≠ k := by
  rintro rfl
  obtain ⟨-, hpage⟩ := hi
  obtain rfl : vpn = n := by rw [← hpage, installSlot_slot_self]
  exact hne ((holds_installSlot_of_misses hmiss).1 hj).symm

/-- Settles O4: the fill gives the page to one slot, and no slot held it; the other paths move no mapping. -/
theorem translateNeverDuplicatesAPage : Obligations.TranslateNeverDuplicatesAPage := by
  intro s t va i j n h hne hi hj
  rcases exec_translate_cases h with ⟨k, -, rfl⟩ | ⟨-, -, rfl⟩ | ⟨v, hmiss, -, -, rfl⟩ | ⟨-, -, -, rfl⟩
  · exact ⟨holds_touchSlot_iff.1 hi, holds_touchSlot_iff.1 hj⟩
  · exact ⟨hi, hj⟩
  · exact ⟨(holds_installSlot_of_ne (ne_of_holds_installSlot_twice hmiss hi hj hne)).1 hi,
      (holds_installSlot_of_ne (ne_of_holds_installSlot_twice hmiss hj hi hne.symm)).1 hj⟩
  · exact ⟨hi, hj⟩

/-- After TRANSLATE answered OK a lookup finds the slot it answered, at the front, with the mapping it answered
(43_translator.md R134(c)). -/
theorem exec_translate_ok_finds {va : Addr} {s t : State} {hit : Bool} {slot : SlotIx} {data : BitVec 16}
    (h : exec (.translate va) s = .next t) (hok : Answers t 0 hit slot data) :
    Finds t (pageNumber va) slot ∧ (t.slot slot).rank = 0 ∧ data = physicalAddress va (t.slot slot).ppn := by
  rcases exec_translate_cases h with ⟨k, hfound, rfl⟩ | ⟨-, -, rfl⟩ | ⟨v, hmiss, -, -, rfl⟩ | ⟨-, -, -, rfl⟩
  · obtain ⟨-, -, rfl, rfl⟩ := hok.unique (answers_respond .ok ..)
    exact ⟨finds_touchSlot_iff.2 hfound, touchSlot_rank_self slot s, by simp [translateHit]⟩
  · exact absurd (hok.statusIs.unique (answers_pageFault va s).statusIs) (by decide)
  · obtain ⟨-, -, rfl, rfl⟩ := hok.unique (answers_respond .ok ..)
    have hslot := installSlot_slot_self slot (s.pte (pageNumber va)).ppn (pageNumber va) s
    refine ⟨finds_installSlot_of_misses hmiss, ?_, ?_⟩ <;> simp [translateFill, hslot]
  · exact absurd (hok.statusIs.unique (answers_internalConsistency s).statusIs) (by decide)

/-- TRANSLATE that finds the page in the front slot only responds (43_translator.md R131; 42_tlb.md R106). -/
theorem exec_translate_of_finds_front {va : Addr} {s : State} {i : SlotIx} (hfound : Finds s (pageNumber va) i)
    (hrank : (s.slot i).rank = 0) :
    exec (.translate va) s = .next (respond .ok true i (physicalAddress va (s.slot i).ppn) s) := by
  rw [exec_translate_of_finds hfound, translateHit, touchSlot_of_rank_zero hrank]

/-- Settles O40: the slot answered is found again and stands at the front. -/
theorem repeatedTranslateHits : Obligations.RepeatedTranslateHits := by
  intro va s t hit slot data h hok
  obtain ⟨hfound, hrank, rfl⟩ := exec_translate_ok_finds h hok
  exact ⟨_, exec_translate_of_finds_front hfound hrank, answers_respond .ok .., sameButResponse_respond ..⟩

/-- TRANSLATE run again writes no storage: after an OK answer it hits the front slot, and after a fault it takes the
same fault (20_memory.md R47). -/
theorem exec_translate_again {va : Addr} {s t : State} (h : exec (.translate va) s = .next t) :
    ∃ u, exec (.translate va) t = .next u ∧ SameStorage t u := by
  rcases exec_translate_cases h with ⟨k, -, rfl⟩ | ⟨hmiss, hinvalid, rfl⟩ | ⟨v, -, -, -, rfl⟩ |
    ⟨hmiss, hvalid, hnone, rfl⟩
  · obtain ⟨u, hagain, -, hsame, -⟩ := repeatedTranslateHits va s _ _ _ _ h (answers_translateHit va k s)
    exact ⟨u, hagain, hsame⟩
  · exact ⟨_, exec_translate_of_misses_of_invalid hmiss hinvalid, rfl, rfl, rfl⟩
  · obtain ⟨u, hagain, -, hsame, -⟩ := repeatedTranslateHits va s _ _ _ _ h (answers_translateFill va _ v s)
    exact ⟨u, hagain, hsame⟩
  · exact ⟨_, exec_translate_of_misses_of_noVictim hmiss hvalid hnone, rfl, rfl, rfl⟩

/-- Settles O8: TRANSLATE run again writes no storage, and any other command gives its own state again. -/
theorem everyCommandIsIdempotentInState : Obligations.EveryCommandIsIdempotentInState := by
  intro i s t h
  by_cases htranslate : ∃ va, i = .translate va
  · obtain ⟨va, rfl⟩ := htranslate
    obtain ⟨u, hagain, hsame⟩ := exec_translate_again h
    exact ⟨u, hagain, hsame, fun hne => absurd rfl (hne va)⟩
  · exact ⟨t, exec_again h fun va hi => htranslate ⟨va, hi⟩, ⟨rfl, rfl, rfl⟩, fun _ => rfl⟩

/-- Settles O43: of the OK answers only the fill's says no hit, and the fill gives the page to one slot. -/
theorem fillLeavesOneSlotHoldingThePage : Obligations.FillLeavesOneSlotHoldingThePage := by
  intro va s t slot data h hok
  rcases exec_translate_cases h with ⟨k, -, rfl⟩ | ⟨-, -, rfl⟩ | ⟨v, hmiss, hvalid, -, rfl⟩ | ⟨-, -, -, rfl⟩
  · obtain ⟨-, hhit, -, -⟩ := hok.unique (answers_translateHit va k s)
    exact absurd hhit (by decide)
  · exact absurd (hok.statusIs.unique (answers_pageFault va s).statusIs) (by decide)
  · obtain ⟨-, -, rfl, -⟩ := hok.unique (answers_translateFill va _ v s)
    refine ⟨holds_installSlot_self slot _ (pageNumber va) s, fun j => (holds_installSlot_of_misses hmiss).1, hvalid, ?_⟩
    exact congrArg Slot.ppn (installSlot_slot_self slot _ (pageNumber va) s)
  · exact absurd (hok.statusIs.unique (answers_internalConsistency s).statusIs) (by decide)

/-- TRANSLATE of two addresses of one page writes the same and responds alike but for the data: the offset goes into the
data alone (43_translator.md R134(e)). -/
theorem exec_translate_same_page {va va' : Addr} {s t t' : State} (hpage : pageNumber va' = pageNumber va)
    (h : exec (.translate va) s = .next t) (h' : exec (.translate va') s = .next t') :
    ∃ st hit k d d' u, t = respond st hit k d u ∧ t' = respond st hit k d' u := by
  rcases exec_translate_cases h with ⟨k, hfound, rfl⟩ | ⟨hmiss, hinvalid, rfl⟩ | ⟨v, hmiss, hvalid, hvictim, rfl⟩ |
    ⟨hmiss, hvalid, hnone, rfl⟩
  · rw [exec_translate_of_finds (hpage ▸ hfound)] at h'
    exact ⟨_, _, _, _, _, _, rfl, (Host.Outcome.next.inj h').symm⟩
  · rw [exec_translate_of_misses_of_invalid (hpage ▸ hmiss) (hpage ▸ hinvalid)] at h'
    exact ⟨.pageFault, _, _, _, _, _, rfl, (Host.Outcome.next.inj h').symm⟩
  · rw [exec_translate_of_misses_of_isVictim (hpage ▸ hmiss) (hpage ▸ hvalid) hvictim, translateFill, hpage] at h'
    exact ⟨_, _, _, _, _, _, rfl, (Host.Outcome.next.inj h').symm⟩
  · rw [exec_translate_of_misses_of_noVictim (hpage ▸ hmiss) (hpage ▸ hvalid) hnone] at h'
    exact ⟨.internalConsistencyFault, _, _, _, _, _, rfl, (Host.Outcome.next.inj h').symm⟩

/-- Settles O42: the two addresses write the same and respond alike but for the data. -/
theorem offsetNeverChoosesThePath : Obligations.OffsetNeverChoosesThePath := by
  intro va va' s t t' status hit slot data status' hit' slot' data' hpage h h' hanswers hanswers'
  obtain ⟨st, b, k, d, d', u, rfl, rfl⟩ := exec_translate_same_page hpage h h'
  obtain ⟨rfl, rfl, rfl, -⟩ := hanswers.unique (answers_respond ..)
  obtain ⟨rfl, rfl, rfl, -⟩ := hanswers'.unique (answers_respond ..)
  exact ⟨⟨⟨rfl, rfl, rfl⟩, rfl⟩, rfl, rfl, rfl⟩

/-- A coherent slot that holds a page agrees with the page's entry, unless it is page 0 under the reset contents
(20_memory.md R53). -/
theorem Coherent.pte_of_holds {s : State} (hs : Coherent s) {i : SlotIx} {n : PageNo} (hholds : Holds s i n)
    (hpage : n ≠ 0 ∨ s.pte 0 = { valid := true, ppn := 0 }) :
    (s.pte n).valid = true ∧ (s.pte n).ppn = (s.slot i).ppn := by
  obtain ⟨hvalid, rfl⟩ := hholds
  obtain ⟨hvpn, hppn⟩ | hagrees := hs i hvalid
  · rw [hvpn, hppn, hpage.resolve_left (not_not.2 hvpn)]
    exact ⟨rfl, rfl⟩
  · exact hagrees

/-- Settles O10: a hit answers the mapping of a slot that agrees with the entry, and a miss reads the entry itself. -/
theorem coherentTranslateEqualsTheWalk : Obligations.CoherentTranslateEqualsTheWalk := by
  intro s va hs hperm hpage
  rcases finds_or_misses s (pageNumber va) with ⟨i, hfound⟩ | hmiss
  · have ⟨hholds, _⟩ := hfound
    obtain ⟨hvalid, hppn⟩ := hs.pte_of_holds hholds hpage
    refine ⟨_, exec_translate_of_finds hfound, fun _ => ⟨true, i, ?_⟩, fun hinvalid => ?_⟩
    · exact hppn ▸ answers_translateHit va i s
    · exact absurd (hvalid.symm.trans hinvalid) (by decide)
  · cases hentry : (s.pte (pageNumber va)).valid with
    | true =>
      obtain ⟨v, hvictim⟩ := hperm.exists_isVictim
      exact ⟨_, exec_translate_of_misses_of_isVictim hmiss hentry hvictim,
        fun _ => ⟨false, v, answers_translateFill va _ v s⟩,
        fun hinvalid => absurd (hentry.symm.trans hinvalid) (by decide)⟩
    | false =>
      exact ⟨_, exec_translate_of_misses_of_invalid hmiss hentry,
        fun hvalid => absurd (hentry.symm.trans hvalid) (by decide), fun _ => answers_pageFault va s⟩

/-- Settles O38: the page-fault path only responds. -/
theorem translateFaultsOnAnInvalidEntry : Obligations.TranslateFaultsOnAnInvalidEntry := by
  intro va s hmiss hinvalid
  exact ⟨_, exec_translate_of_misses_of_invalid hmiss hinvalid, answers_pageFault va s,
    sameButResponse_respond .pageFault false 0 va s⟩

/-- Settles O44: both commands scan for rank 3, and where it is missing they take the internal fault. -/
theorem internalFaultSetsFatalOnly : Obligations.InternalFaultSetsFatalOnly := by
  intro s hnone
  have taken : Answers (takeFault .internalConsistency s) 2 false 0 0 ∧
      (takeFault .internalConsistency s).fatal = true ∧ (takeFault .internalConsistency s).slots = s.slots ∧
      (takeFault .internalConsistency s).pt = s.pt ∧ (takeFault .internalConsistency s).events = s.events :=
    ⟨answers_internalConsistency s, rfl, rfl, rfl, rfl⟩
  exact ⟨⟨_, exec_victim_of_noVictim hnone, taken⟩,
    fun va hmiss hvalid => ⟨_, exec_translate_of_misses_of_noVictim hmiss hvalid hnone, taken⟩⟩

/-- TRANSLATE of a page that no slot holds answers no hit on every path (43_translator.md R132, R133). -/
theorem exec_translate_of_misses_answers {va : Addr} {s : State} (hmiss : Misses s (pageNumber va)) :
    ∃ t status slot data, exec (.translate va) s = .next t ∧ Answers t status false slot data := by
  obtain ⟨t, h⟩ := exec_translate_next va s
  rcases exec_translate_cases h with ⟨k, hfound, -⟩ | ⟨-, -, rfl⟩ | ⟨v, -, -, -, rfl⟩ | ⟨-, -, -, rfl⟩
  · exact absurd hmiss hfound.not_misses
  · exact ⟨_, _, _, _, h, answers_pageFault va s⟩
  · exact ⟨_, _, _, _, h, answers_translateFill va _ v s⟩
  · exact ⟨_, _, _, _, h, answers_internalConsistency s⟩

/-- After an ALL_VALID_ZERO reset a lookup of page 0 finds slot 0 (43_translator.md R134(a)). -/
theorem finds_zero_resetWith {p : ResetParams} (hstyle : p.tlbStyle = .allValidZero) :
    Finds (State.resetWith p) 0 0 :=
  ⟨by simp [Holds, hstyle], fun j hj => absurd hj (Fin.not_lt_zero j)⟩

/-- After an ALL_EMPTY reset every lookup misses (43_translator.md R134(b)). -/
theorem misses_resetWith {p : ResetParams} (hstyle : p.tlbStyle = .allEmpty) (n : PageNo) :
    Misses (State.resetWith p) n := by
  intro i hholds
  simp [Holds, hstyle] at hholds

/-- An address of page 0 keeps its number under page 0 (40_address_codec.md R81). -/
theorem toNat_mod_of_page_zero {va : Addr} (hpage : pageNumber va = 0) : va.toNat % 4096 = va.toNat := by
  have hzero : va.toNat / 4096 = 0 := by rw [← pageNumber_toNat, hpage]; rfl
  omega

/-- Settles O41: the reset contents hold page 0 in slot 0, or nothing at all. -/
theorem firstTranslateAfterReset : Obligations.FirstTranslateAfterReset := by
  intro p va
  refine ⟨fun hstyle hpage => ?validZero, fun hstyle => exec_translate_of_misses_answers (misses_resetWith hstyle _)⟩
  replace hpage : pageNumber va = 0 := hpage
  have hfound : Finds (State.resetWith p) (pageNumber va) 0 := hpage ▸ finds_zero_resetWith hstyle
  have hanswers := answers_translateHit va 0 (State.resetWith p)
  rw [State.resetWith_slot, Slot.atReset_ppn, toNat_mod_of_page_zero hpage] at hanswers
  exact ⟨_, exec_translate_of_finds hfound, by simpa using hanswers⟩

end Sys2Proof.Machine

/-! PROOFS. The read and write table of the commands (30_encoding.md R64): what each leaves as it was, and what alone
its answer depends on. -/

namespace Sys2Proof.Machine

/-- TRANSLATE keeps the mapping of every slot but one of rank 3, and on a hit of that one too (30_encoding.md R64). -/
theorem exec_translate_keeps_mapping {va : Addr} {s t : State} {j : SlotIx} (h : exec (.translate va) s = .next t)
    (hj : (s.slot j).rank ≠ 3 ∨ ∃ i, Finds s (pageNumber va) i) :
    (t.slot j).valid = (s.slot j).valid ∧ (t.slot j).vpn = (s.slot j).vpn ∧ (t.slot j).ppn = (s.slot j).ppn := by
  rcases exec_translate_cases h with ⟨k, -, rfl⟩ | ⟨-, -, rfl⟩ | ⟨v, hmiss, -, ⟨hrank, -⟩, rfl⟩ | ⟨-, -, -, rfl⟩
  · simp [translateHit]
  · simp
  · have hjv : j ≠ v := by
      obtain hne | ⟨i, hfound⟩ := hj
      · exact fun hjv => hne (hjv ▸ hrank)
      · exact absurd hmiss hfound.not_misses
    exact installSlot_keeps_mapping_of_ne hjv _ (pageNumber va) s
  · simp

/-- FIND only responds (42_tlb.md R101). -/
theorem exec_find_sameStorage {pn : PageNo} {s t : State} (h : exec (.find pn) s = .next t) : SameStorage s t := by
  rcases exec_find_cases h with ⟨i, -, rfl⟩ | ⟨-, rfl⟩ <;> exact ⟨rfl, rfl, rfl⟩

/-- The write columns of TRANSLATE, path by path (30_encoding.md R64). -/
theorem exec_translate_writes {va : Addr} {s t : State} (h : exec (.translate va) s = .next t) :
    (t.fatal ≠ s.fatal → t.slots = s.slots ∧ NoVictim s) ∧
    ((∃ i, Finds s (pageNumber va) i) → SameButRanks s t) ∧
    (Misses s (pageNumber va) →
      ((s.pte (pageNumber va)).valid = false → SameStorage s t) ∧
      ((s.pte (pageNumber va)).valid = true →
        (NoVictim s → t.slots = s.slots) ∧ (¬ NoVictim s → t.fatal = s.fatal))) := by
  refine ⟨fun hfatal => ?fatalWritten, ?hit, fun hmiss => ⟨fun hinvalid => ?pageFault, fun hvalid =>
    ⟨fun hnone => ?noVictim, fun hvictim => ?filled⟩⟩⟩
  case fatalWritten =>
    rcases exec_fatal_cases h with hkept | ⟨hnone, rfl, -⟩
    · exact absurd hkept hfatal
    · exact ⟨rfl, hnone⟩
  case hit =>
    rintro ⟨i, hfound⟩
    obtain rfl := Host.Outcome.next.inj ((exec_translate_of_finds hfound).symm.trans h)
    exact sameButRanks_touchSlot i s
  case pageFault =>
    obtain rfl := Host.Outcome.next.inj ((exec_translate_of_misses_of_invalid hmiss hinvalid).symm.trans h)
    exact ⟨rfl, rfl, rfl⟩
  case noVictim =>
    obtain rfl := Host.Outcome.next.inj ((exec_translate_of_misses_of_noVictim hmiss hvalid hnone).symm.trans h)
    rfl
  case filled =>
    rcases exec_fatal_cases h with hkept | ⟨hnone, -, -⟩
    · exact hkept
    · exact absurd hnone hvictim

/-- VICTIM writes `fatal` alone, and only where no slot has rank 3 (30_encoding.md R64). -/
theorem exec_victim_writes {s t : State} (h : exec .victim s = .next t) :
    t.slots = s.slots ∧ (t.fatal ≠ s.fatal → NoVictim s) := by
  rcases exec_victim_cases h with ⟨v, -, rfl⟩ | ⟨hnone, rfl⟩
  · exact ⟨rfl, fun hfatal => absurd rfl hfatal⟩
  · exact ⟨rfl, fun _ => hnone⟩

/-- Settles O19: the write columns of the table, row by row. -/
theorem commandsWriteOnlyTheirRow : Obligations.CommandsWriteOnlyTheirRow := by
  refine ⟨fun i s t => exec_keeps_pt_and_events,
    fun va s t h => ⟨fun j => exec_translate_keeps_mapping h, exec_translate_writes h⟩,
    fun pn s t => exec_find_sameStorage, ?touch, fun s t => exec_victim_writes, ?install, ?ptlookup, ?ranks, ?pgnum,
    ?physaddr⟩
  case touch =>
    intro slot s t h
    obtain rfl := Host.Outcome.next.inj h
    exact sameButRanks_touchSlot slot s
  case install =>
    intro slot ppn vpn s t h
    obtain rfl := Host.Outcome.next.inj h
    exact ⟨sameButSlots_installSlot slot ppn vpn s, fun j hj => installSlot_keeps_mapping_of_ne hj ppn vpn s⟩
  case ptlookup | ranks | pgnum | physaddr =>
    intros
    rename_i h
    obtain rfl := Host.Outcome.next.inj h
    exact ⟨rfl, rfl, rfl⟩

/-- `install` reranks as a touch does (42_tlb.md R111). -/
theorem installSlot_rank (i : SlotIx) (ppn vpn : PageNo) (s : State) (j : SlotIx) :
    ((installSlot i ppn vpn s).slot j).rank = rerank i (s.slot i).rank j (s.slot j).rank := by
  rw [installSlot, touchSlot_slot, overwriteSlot_rank, overwriteSlot_rank]

/-- TRANSLATE reads the slots, and on a miss the one entry of its page (30_encoding.md R64). -/
theorem exec_translate_reads {va : Addr} {s s' t t' : State} (h : exec (.translate va) s = .next t)
    (h' : exec (.translate va) s' = .next t') (hslots : s'.slots = s.slots)
    (hentry : Misses s (pageNumber va) → s'.pte (pageNumber va) = s.pte (pageNumber va)) :
    t'.response = t.response ∧ t'.slots = t.slots ∧ (s'.fatal = s.fatal → t'.fatal = t.fatal) := by
  obtain ⟨slots, pt, fatal, response, events⟩ := s'
  obtain rfl : slots = s.slots := hslots
  rcases exec_translate_cases h with ⟨k, hfound, rfl⟩ | ⟨hmiss, hinvalid, rfl⟩ | ⟨v, hmiss, hvalid, hvictim, rfl⟩ |
    ⟨hmiss, hvalid, hnone, rfl⟩
  · obtain rfl := Host.Outcome.next.inj (h'.symm.trans (exec_translate_of_finds hfound))
    exact ⟨rfl, rfl, id⟩
  · have hinvalid' := hentry hmiss ▸ hinvalid
    obtain rfl := Host.Outcome.next.inj (h'.symm.trans (exec_translate_of_misses_of_invalid hmiss hinvalid'))
    exact ⟨rfl, rfl, id⟩
  · have hvalid' := hentry hmiss ▸ hvalid
    obtain rfl := Host.Outcome.next.inj (h'.symm.trans (exec_translate_of_misses_of_isVictim hmiss hvalid' hvictim))
    rw [hentry hmiss]
    exact ⟨rfl, rfl, id⟩
  · have hvalid' := hentry hmiss ▸ hvalid
    obtain rfl := Host.Outcome.next.inj (h'.symm.trans (exec_translate_of_misses_of_noVictim hmiss hvalid' hnone))
    exact ⟨rfl, rfl, fun _ => rfl⟩

/-- FIND reads valid bits and page numbers (30_encoding.md R64). -/
theorem exec_find_reads {pn : PageNo} {s s' t t' : State} (h : exec (.find pn) s = .next t)
    (h' : exec (.find pn) s' = .next t')
    (hsame : ∀ i, (s'.slot i).valid = (s.slot i).valid ∧ (s'.slot i).vpn = (s.slot i).vpn) :
    t'.response = t.response := by
  have hholds (i : SlotIx) : Holds s' i pn ↔ Holds s i pn := by
    obtain ⟨hvalid, hvpn⟩ := hsame i
    rw [Holds, Holds, hvalid, hvpn]
  rcases exec_find_cases h with ⟨i, hfound, rfl⟩ | ⟨hmiss, rfl⟩
  · have hfound' : Finds s' pn i := by simpa only [Finds, hholds] using hfound
    rw [exec_find_of_finds hfound'] at h'
    obtain rfl := Host.Outcome.next.inj h'
    rfl
  · have hmiss' : Misses s' pn := by simpa only [Misses, hholds] using hmiss
    rw [exec_find_of_misses hmiss'] at h'
    obtain rfl := Host.Outcome.next.inj h'
    rfl

/-- VICTIM reads the ranks (30_encoding.md R64). -/
theorem exec_victim_reads {s s' t t' : State} (h : exec .victim s = .next t) (h' : exec .victim s' = .next t')
    (hranks : ∀ i, (s'.slot i).rank = (s.slot i).rank) :
    t'.response = t.response ∧ (s'.fatal = s.fatal → t'.fatal = t.fatal) := by
  rcases exec_victim_cases h with ⟨v, hvictim, rfl⟩ | ⟨hnone, rfl⟩
  · have hvictim' : IsVictim s' v := by simpa only [IsVictim, hranks] using hvictim
    rw [exec_victim_of_isVictim hvictim'] at h'
    obtain rfl := Host.Outcome.next.inj h'
    exact ⟨rfl, id⟩
  · have hnone' : NoVictim s' := by simpa only [NoVictim, hranks] using hnone
    rw [exec_victim_of_noVictim hnone'] at h'
    obtain rfl := Host.Outcome.next.inj h'
    exact ⟨rfl, fun _ => rfl⟩

/-- RANKS has one outcome: the four ranks packed and zero-extended (42_tlb.md R116). -/
theorem exec_ranks_eq (s : State) :
    exec .ranks s = .next (respond .ok false 0
      ((packRanks (s.slot 0).rank (s.slot 1).rank (s.slot 2).rank (s.slot 3).rank).setWidth 16) s) := rfl

/-- Settles O20: the read columns of the table, row by row. -/
theorem commandsReadOnlyTheirRow : Obligations.CommandsReadOnlyTheirRow := by
  refine ⟨fun va s s' t t' => exec_translate_reads, fun pn s s' t t' => exec_find_reads, ?touch,
    fun s s' t t' => exec_victim_reads, ?install, ?ptlookup, ?ranks, ?pgnum, ?physaddr⟩
  case touch =>
    intro k s s' t t' h h' hranks
    obtain rfl := Host.Outcome.next.inj h
    obtain rfl := Host.Outcome.next.inj h'
    exact ⟨rfl, fun i => by simp [hranks]⟩
  case install =>
    intro k ppn vpn s s' t t' h h' hranks
    obtain rfl := Host.Outcome.next.inj h
    obtain rfl := Host.Outcome.next.inj h'
    exact ⟨rfl, by simp [installSlot_slot_self], fun i => by simp [installSlot_rank, hranks]⟩
  case ptlookup =>
    intro pn s s' t t' h h' hentry
    rw [exec_ptlookup_eq] at h h'
    obtain rfl := Host.Outcome.next.inj h
    obtain rfl := Host.Outcome.next.inj h'
    simp [hentry]
  case ranks =>
    intro s s' t t' h h' hranks
    rw [exec_ranks_eq] at h h'
    obtain rfl := Host.Outcome.next.inj h
    obtain rfl := Host.Outcome.next.inj h'
    simp [hranks]
  case pgnum =>
    intro va s s' t t' h h'
    obtain rfl := Host.Outcome.next.inj h
    obtain rfl := Host.Outcome.next.inj h'
    rfl
  case physaddr =>
    intro va ppn s s' t t' h h'
    obtain rfl := Host.Outcome.next.inj h
    obtain rfl := Host.Outcome.next.inj h'
    rfl

/-- The packed ranks as response data (42_tlb.md R116). -/
theorem packRanks_setWidth (r0 r1 r2 r3 : Rank) :
    (packRanks r0 r1 r2 r3).setWidth 16 =
      BitVec.ofNat 16 (r0.toNat + r1.toNat * 4 + r2.toNat * 16 + r3.toNat * 64) := by
  rw [← packRanks_toNat, BitVec.ofNat_toNat]

/-- Settles O36: RANKS only responds, and its data weighs the ranks by their places. -/
theorem ranksAnswersTheFourRanks : Obligations.RanksAnswersTheFourRanks := by
  intro s
  have hexec := exec_ranks_eq s
  rw [packRanks_setWidth] at hexec
  exact answers_and_keeps_of_exec_eq_respond hexec

end Sys2Proof.Machine

/-! PROOFS. The address codec in unsigned arithmetic and its round trips (40_address_codec.md R80, R81, R84), and the
state after reset, field by field (70_reset_and_hazards.md R170 to R172). -/

namespace Sys2Proof.Machine

/-- The physical address by shift and mask (40_address_codec.md R81). -/
theorem physicalAddress_eq_shift_or_mask (va : Addr) (ppn : PageNo) :
    physicalAddress va ppn = ppn.setWidth 16 <<< 12 ||| (va &&& 0x0FFF) := by
  have hoffset : va.toNat % 2 ^ 12 < 2 ^ 12 := Nat.mod_lt _ (by decide)
  have hfits : ppn.toNat * 2 ^ 12 < 2 ^ 16 := by have := ppn.isLt; omega
  refine BitVec.eq_of_toNat_eq ?_
  calc (physicalAddress va ppn).toNat
      = 2 ^ 12 * ppn.toNat + va.toNat % 2 ^ 12 := by rw [physicalAddress_toNat]; omega
    _ = 2 ^ 12 * ppn.toNat ||| va.toNat &&& (2 ^ 12 - 1) := by
      rw [Nat.two_pow_add_eq_or_of_lt hoffset, Nat.and_two_pow_sub_one_eq_mod]
    _ = (ppn.setWidth 16 <<< 12 ||| (va &&& 0x0FFF)).toNat := by
      rw [BitVec.toNat_or, BitVec.toNat_and, BitVec.toNat_shiftLeft, BitVec.toNat_setWidth_of_le (by decide),
        Nat.shiftLeft_eq, Nat.mod_eq_of_lt hfits, Nat.mul_comm]
      rfl

/-- Settles O23: the numbers of the three codec functions. -/
theorem codecAgreesWithArithmetic : Obligations.CodecAgreesWithArithmetic :=
  fun va ppn => ⟨pageNumber_toNat va, pageOffset_toNat va, physicalAddress_eq_shift_or_mask va ppn,
    physicalAddress_toNat va ppn⟩

/-- An address is its page number and its offset (40_address_codec.md R84). -/
theorem physicalAddress_pageNumber (va : Addr) : physicalAddress va (pageNumber va) = va := by
  refine BitVec.eq_of_toNat_eq ?_
  rw [physicalAddress_toNat, pageNumber_toNat]
  omega

/-- Settles O24: the two fields of a physical address, and the joining of an address's own fields. -/
theorem splitRoundTrip : Obligations.SplitRoundTrip :=
  fun v p => ⟨physicalAddress_offsetField v p, physicalAddress_pageField v p, physicalAddress_pageNumber v⟩

/-- The default fill maps every page to itself (00_scope.md R6). -/
theorem standard_ptFill_get (n : PageNo) :
    ResetParams.standard.ptFill[n.toNat]'n.isLt = { valid := true, ppn := n } := by
  simp [ResetParams.standard, Config.identityFill]

/-- Settles O49: the step is `applyReset`, read field by field. -/
theorem resetLoadsItsParameters : Obligations.ResetLoadsItsParameters := by
  refine ⟨fun s p rest hev => ⟨_, step_of_reset hev, fun n => rfl, fun i => ?slot, rfl, rfl, rfl⟩, standard_ptFill_get,
    rfl⟩
  rw [applyReset_slot]
  exact ⟨rfl, rfl, rfl, decide_eq_true_iff⟩

/-- Settles O50: the start state is the reset state of the default parameters. -/
theorem startStateHasTheDefaults : Obligations.StartStateHasTheDefaults := by
  refine ⟨standard_ptFill_get, fun i => ?slot, rfl⟩
  rw [State.reset, State.resetWith_slot]
  fin_cases i <;> rfl

end Sys2Proof.Machine

/-! PROOFS. The assembler: a line whose operands are in range becomes the table's word, and any other is refused
(30_encoding.md R73). -/

namespace Sys2Proof.Machine

/-- The word of a command is the table's number (30_encoding.md R73). -/
theorem encode_eq_ofNat (i : Instr) : encode i = BitVec.ofNat 32 i.tableNumber := by
  rw [← encode_toNat, BitVec.ofNat_toNat, BitVec.setWidth_eq]

/-- What the assembler makes of a line of the right operand count, where `c` says that the operands are in range, `i` is
the command that the line names and `n` the table's number. -/
theorem assembleLine_eq {l : SourceLine} {c : Prop} [Decidable c] {i : Instr} {n : Nat}
    (hcommand : commandOfLine l = if l.wellFormed then some i else none) (hcount : l.countOk = true)
    (hrange : l.rangesOk = true ↔ c) (hnumber : c → i.tableNumber = n) :
    assembleLine l = if c then .ok (BitVec.ofNat 32 n) else .error (.operandRange l.mnemonic) := by
  have hwellFormed : l.wellFormed = true ↔ c := by rw [SourceLine.wellFormed, hcount, Bool.true_and, hrange]
  by_cases hc : c
  · rw [assembleLine, hcommand, if_pos (hwellFormed.2 hc), if_pos hc, ← hnumber hc, ← encode_eq_ofNat]
  · rw [assembleLine, hcommand, if_neg (mt hwellFormed.1 hc), if_neg hc]
    exact if_pos hcount

/-- The range of a lone operand (30_encoding.md R73). -/
theorem rangesOk_one_iff {m : Mnemonic} {a n : Nat} (hbounds : m.operandBounds = [n + 1]) :
    SourceLine.rangesOk { mnemonic := m, operands := [a] } = true ↔ a ≤ n := by
  simp [SourceLine.rangesOk, hbounds]

/-- Settles O16: a line with an operand out of range names no command, and one in range names the command whose operands
are the numbers of the line. -/
theorem assemblerEmitsTheTablesWords : Obligations.AssemblerEmitsTheTablesWords := by
  refine ⟨fun va => ?translate, fun pn => ?find, fun slot => ?touch, rfl, fun slot ppn vpn => ?install,
    fun pn => ?ptlookup, rfl, fun va => ?pgnum, fun va ppn => ?physaddr⟩
  case translate =>
    refine assembleLine_eq (i := .translate (BitVec.ofNat 16 va)) rfl rfl (rangesOk_one_iff rfl) fun hva => ?_
    simp only [Instr.tableNumber, BitVec.toNat_ofNat]; omega
  case find =>
    refine assembleLine_eq (i := .find (BitVec.ofNat 4 pn)) rfl rfl (rangesOk_one_iff rfl) fun hpn => ?_
    simp only [Instr.tableNumber, BitVec.toNat_ofNat]; omega
  case touch =>
    refine assembleLine_eq (i := .touch (Fin.ofNat 4 slot)) rfl rfl (rangesOk_one_iff rfl) fun hslot => ?_
    simp only [Instr.tableNumber, Fin.val_ofNat]; omega
  case ptlookup =>
    refine assembleLine_eq (i := .ptlookup (BitVec.ofNat 4 pn)) rfl rfl (rangesOk_one_iff rfl) fun hpn => ?_
    simp only [Instr.tableNumber, BitVec.toNat_ofNat]; omega
  case pgnum =>
    refine assembleLine_eq (i := .pgnum (BitVec.ofNat 16 va)) rfl rfl (rangesOk_one_iff rfl) fun hva => ?_
    simp only [Instr.tableNumber, BitVec.toNat_ofNat]; omega
  case install =>
    refine assembleLine_eq (i := .install (Fin.ofNat 4 slot) (BitVec.ofNat 4 ppn) (BitVec.ofNat 4 vpn)) rfl rfl ?_
      fun ⟨hslot, hppn, hvpn⟩ => ?_
    · simp [SourceLine.rangesOk, Mnemonic.operandBounds, Nat.lt_succ_iff]
    · simp only [Instr.tableNumber, Fin.val_ofNat, BitVec.toNat_ofNat]; omega
  case physaddr =>
    refine assembleLine_eq (i := .physaddr (BitVec.ofNat 16 va) (BitVec.ofNat 4 ppn)) rfl rfl ?_
      fun ⟨hva, hppn⟩ => ?_
    · simp [SourceLine.rangesOk, Mnemonic.operandBounds, Nat.lt_succ_iff]
    · simp only [Instr.tableNumber, BitVec.toNat_ofNat]; omega

end Sys2Proof.Machine
